-- ==== Sys2Proof/Word.lean ====
section
/-! DEFINITION. The word types of the engine: 64-bit registers (00_scope.md R5, R9) and the bytes of
the host port (20_memory.md R50). -/

namespace Sys2Proof

/-- A 64-bit register value, as bits (R9); `BitVec.toInt` is its signed reading `sint`. -/
abbrev Word := BitVec 64

/-- A byte is 8 bits (R50). -/
abbrev Byte := BitVec 8

/-- INT64_MIN of R5. -/
def int64Min : Int := -9223372036854775808

/-- INT64_MAX of R5. -/
def int64Max : Int := 9223372036854775807

end Sys2Proof
end

