-- ==== Sys2Proof/Config.lean ====
section
/-! DEFINITION. The parameters of the instance (00_scope.md R6 to R8) and the values the spec leaves
open: the window's base address and the random source's words. -/

namespace Sys2Proof

/-- The instance parameters of R6 and R7, fixed for the instance's lifetime. The operations that use
them take them as an argument, as section 4 of 00_scope.md asks. -/
structure Params where
  /-- PRIME_LO, the least candidate of the sampler (R6). -/
  primeLo : Int
  /-- PRIME_HI, one above the greatest candidate (R6). -/
  primeHi : Int
  /-- E_PUB, the public exponent KEYGEN writes to KE (R7). -/
  ePub : Int
  deriving DecidableEq, Repr

/-- The values this hardware takes: PRIME_LO = 100, PRIME_HI = 1000 (R6), E_PUB = 65537 (R7). -/
def Config.params : Params := { primeLo := 100, primeHi := 1000, ePub := 65537 }

/-- WINDOW of R8: nine 64-bit registers. -/
def Config.window : Nat := 0x48

/-- BASE divided by 8. A free value: the spec leaves BASE open (R8; log 1). -/
opaque Config.baseSlot : Nat

/-- BASE, the byte address of the register window: a multiple of 8, otherwise open (R8; log 1). -/
def Config.base : Nat := 8 * Config.baseSlot

/-- The random source's word number k, where no script in the state says otherwise; `none` when the
source never delivers that word. A free value under no law (R15, 40_primegen.md R95; log 2). -/
opaque Config.rngStream : Nat → Option Word

end Sys2Proof
end

