-- ==== Sys2Proof/Syntax.lean ====
section
/-! DEFINITION. The seven commands of 30_encoding.md R74, one constructor per row of the opcode
table. Operands are implicit (R72), so no constructor has an argument. -/

namespace Sys2Proof

/-- A command of the engine (R74). -/
inductive Instr where
  /-- PRIMEGEN, 0x01: RES <- a sampled prime (40_primegen.md R90). -/
  | primegen
  /-- ISPRIME, 0x02: RES <- whether OPA is prime (41_isprime.md R100). -/
  | isprime
  /-- MODINV, 0x03: RES <- inverse of OPA modulo OPM (42_modinv.md R110). -/
  | modinv
  /-- MODEXP, 0x04: RES <- OPA^OPB mod OPM (43_modexp.md R122). -/
  | modexp
  /-- KEYGEN, 0x05: KE, KN, KD <- a fresh key (44_keygen.md R135). -/
  | keygen
  /-- ENC, 0x06: RES <- OPA^KE mod KN (45_encdec.md R150). -/
  | enc
  /-- DEC, 0x07: RES <- OPA^KD mod KN (45_encdec.md R152). -/
  | dec
  deriving DecidableEq, Repr

end Sys2Proof
end

