-- ==== Sys2Proof/WellFormed.lean ====
section
/-! DEFINITION. Well-formedness: of a command (no field, so nothing to check), of a command word
(30_encoding.md R70, R71) and of the instance parameters (00_scope.md R6, R7, R8). -/

namespace Sys2Proof

/-- Every command is well formed: format C has no operand field (R70, R72). -/
def Instr.wellFormed : Instr → Bool
  | .primegen => true
  | .isprime => true
  | .modinv => true
  | .modexp => true
  | .keygen => true
  | .enc => true
  | .dec => true

/-- "w is legal exactly when 1 <= w <= 7 as an unsigned 64-bit number" (R71). -/
def wordLegal (w : Word) : Bool := decide (1 ≤ w.toNat) && decide (w.toNat ≤ 7)

/-- 0 <= PRIME_LO < PRIME_HI <= INT64_MAX (R6) and 1 <= E_PUB <= INT64_MAX (R7). -/
def Params.wellFormed (P : Params) : Bool :=
  decide (0 ≤ P.primeLo) && decide (P.primeLo < P.primeHi) && decide (P.primeHi ≤ int64Max) &&
    decide (1 ≤ P.ePub) && decide (P.ePub ≤ int64Max)

/-- BASE must be a multiple of 8 (R8). -/
def baseWellFormed (base : Nat) : Bool := base % 8 == 0

end Sys2Proof
end

