-- ==== Sys2Proof/Decode.lean ====
section
/-! DEFINITION. Decoding of command words (30_encoding.md R70, R71, R75), the encoder of R74, and the
little-endian byte form of a word (20_memory.md R58). -/

namespace Sys2Proof

/-- Why a word is no command; every reason is the exception Illegal (R75, 60_exceptions.md R181). -/
inductive DecodeError where
  /-- A nonzero bit in field ZERO, bits 63:8 (R70). -/
  | zeroField
  /-- An operation code outside 0x01 to 0x07 (R71). -/
  | opcode
  /-- Fewer than the eight bytes of one command word (only for a byte list, never for a CMD write). -/
  | truncated
  deriving DecidableEq, Repr

/-- Field ZERO, bits 63:8 (R70). -/
def zeroField (w : Word) : BitVec 56 := w.extractLsb' 8 56

/-- Field OPC, bits 7:0 (R70). -/
def opcField (w : Word) : BitVec 8 := w.extractLsb' 0 8

/-- The opcode map (R71). -/
def decodeOpc (c : BitVec 8) : Except DecodeError Instr :=
  match c.toNat with
  | 1 => .ok .primegen
  | 2 => .ok .isprime
  | 3 => .ok .modinv
  | 4 => .ok .modexp
  | 5 => .ok .keygen
  | 6 => .ok .enc
  | 7 => .ok .dec
  | _ => .error .opcode

/-- `decode` of R71, total on all 64-bit words. -/
def decode (w : Word) : Except DecodeError Instr :=
  if zeroField w ≠ 0 then .error .zeroField else decodeOpc (opcField w)

/-- The unsigned value of a byte list, first byte least significant (R58). -/
def natOfBytes : List Byte → Nat
  | [] => 0
  | b :: bs => b.toNat + 256 * natOfBytes bs

/-- The eight bytes of a word, bits 7:0 first (R58). -/
def bytesOfWord (w : Word) : List Byte :=
  (List.range 8).map (fun k => w.extractLsb' (8 * k) 8)

/-- Decode the command whose word stands in the first eight bytes, and hand back the rest. -/
def decodeBytes (bs : List Byte) : Except DecodeError (Instr × List Byte) :=
  if bs.length < 8 then .error .truncated
  else
    match decode (BitVec.ofNat 64 (natOfBytes (bs.take 8))) with
    | .ok i => .ok (i, bs.drop 8)
    | .error e => .error e

/-- OPC of each row of R74. -/
def opcOf : Instr → BitVec 8
  | .primegen => 0x01
  | .isprime => 0x02
  | .modinv => 0x03
  | .modexp => 0x04
  | .keygen => 0x05
  | .enc => 0x06
  | .dec => 0x07

/-- The command word of each row of R74: ZERO = 0 above OPC. -/
def encode (i : Instr) : Word := (0#56 ++ opcOf i : BitVec 64)

/-- The command word as the bytes of the window (R58). -/
def encodeBytes (i : Instr) : List Byte := bytesOfWord (encode i)

/-- What the decoder reads from a table word of `nbits` bits, bits above them zero. -/
def decodeTableWord (nbits w : Nat) : Option Instr :=
  match decodeBytes (bytesOfWord (BitVec.ofNat 64 (w % 2 ^ nbits))) with
  | .ok (i, _) => some i
  | .error _ => none

end Sys2Proof
end

