-- ==== Sys2Proof/Machine/State.lean ====
section
/-! DEFINITION. The engine's state (10_state.md), the environment's coming actions, the exceptions of
60_exceptions.md, and the state after reset. -/

namespace Sys2Proof.Machine

/-- The engine's exceptions (60_exceptions.md R180, 00_scope.md R14). Raising one is a next state
(R190), never a stop of the machine. -/
inductive Exc where
  /-- Illegal command word (R181). -/
  | illegal
  /-- An operand outside the operation's domain (R182). -/
  | range
  /-- A checked product, sum or difference left the 64-bit signed range (R183). -/
  | overflow
  /-- MODINV of operands that are not coprime (R184). -/
  | noInverse
  /-- KEYGEN sampled p = q, or gcd(E_PUB, phi) is not 1 (R185). -/
  | keyGen
  /-- ENC or DEC without a key (R186). -/
  | noKey
  /-- KEYGEN when a key is already valid (R187). -/
  | keyLocked
  /-- ENC or DEC of a value outside [0, KN) (R188). -/
  | domain
  deriving DecidableEq, Repr

/-- The nine registers of the window (10_state.md R20). -/
inductive Reg where
  | cmd | status | opa | opb | opm | res | ke | kn | kd
  deriving DecidableEq, Repr

/-- What the environment does next (00_scope.md R16, 20_memory.md R60, 70_reset_and_hazards.md R211). -/
inductive HostEvent where
  /-- `MemRead(addr, size)` on the host port (R53, R55). -/
  | read (addr size : Nat)
  /-- `MemWrite(addr, size, v)` on the host port (R54, R55). -/
  | write (addr size : Nat) (v : Word)
  /-- The host statement WAIT: poll STATUS until BUSY = 0; `busyReads` reads that see BUSY = 1 come
  before the engine's next turn (30_encoding.md R79; log 5). -/
  | wait (busyReads : Nat)
  /-- The host makes no access: the engine's step, if enabled, falls here (R60; log 4). -/
  | pause
  /-- The platform asserts reset (R211), the running command having drawn `drawn` words (R212; log 6). -/
  | reset (drawn : Nat)
  deriving DecidableEq, Repr

/-- A response on the host port (20_memory.md R53 to R56). -/
inductive Reply where
  /-- OK to a read, with the register's 64 bits (R53). -/
  | data (v : Word)
  /-- OK to a write (R54). -/
  | done
  /-- BusError: the access was refused, with no data (R55). -/
  | busError
  deriving DecidableEq, Repr

/-- The machine's whole state. The first eleven fields are the engine's (10_state.md R20, R26, R37);
the last four are the environment's, which the engine does not hold (R39, 00_scope.md R16). -/
structure State where
  /-- CMDREG, the latched command word (R37). -/
  cmdreg : Word
  /-- STATUS.BUSY (R27). -/
  busy : Bool
  /-- STATUS.KEYVALID (R28). -/
  keyValid : Bool
  /-- STATUS.ERR (R29). -/
  err : BitVec 8
  /-- OPA (R21). -/
  opa : Word
  /-- OPB (R22). -/
  opb : Word
  /-- OPM (R23). -/
  opm : Word
  /-- RES (R24). -/
  res : Word
  /-- KE (R31). -/
  ke : Word
  /-- KN (R32). -/
  kn : Word
  /-- KD (R33). -/
  kd : Word
  /-- The words the random source delivers next, in order; after them come the words of
  `Config.rngStream` (00_scope.md R15; log 2). -/
  rngWords : List Word
  /-- How many random words have been consumed (70_reset_and_hazards.md R226, 40_primegen.md R96). -/
  rngUsed : Nat
  /-- The environment's coming actions, the next one first (20_memory.md R60; log 4). -/
  host : List HostEvent
  /-- The responses given on the host port, the latest first (R53 to R56; log 5). -/
  replies : List Reply
  deriving DecidableEq, Repr

/-- No event of the spec stops the machine: an error is a code in STATUS.ERR (60_exceptions.md R190),
a refused access a response (R199), a hang goes on for ever with BUSY = 1 (R198). So there is no fault. -/
inductive Fault where
  deriving DecidableEq, Repr

/-- Why a step has no meaning. -/
inductive Refusal where
  /-- Raised by an arm of `exec` whose command has no meaning yet; safe. No arm raises it now. -/
  | notModelled (mnemonic : String)
  deriving DecidableEq, Repr

/-- The state after reset at power-on (10_state.md R41, 70_reset_and_hazards.md R210): every register
of the engine 0. The environment's four fields start empty (log 2, log 4, log 5). -/
def State.reset : State :=
  { cmdreg := 0, busy := false, keyValid := false, err := 0, opa := 0, opb := 0, opm := 0, res := 0,
    ke := 0, kn := 0, kd := 0, rngWords := [], rngUsed := 0, host := [], replies := [] }

end Sys2Proof.Machine
end

