-- ==== Sys2Proof/Machine/Arith.lean ====
section
/-! DEFINITION. The spec's arithmetic notation (00_scope.md R10 to R13). `a div b` and `a mod b` are
Lean's `/` and `%` on Int, which for a >= 0 and b > 0 are the floor quotient and its remainder (R12). -/

namespace Sys2Proof.Machine

/-- v fits a 64-bit signed register (R5). -/
abbrev Fits (v : Int) : Prop := int64Min ≤ v ∧ v ≤ int64Max

/-- `chk(v)` of R11: v, or raise Overflow. -/
def chk (v : Int) : Except Exc Int :=
  if Fits v then .ok v else .error .overflow

/-- `bitlen(v)` of R13: 0 for 0, else the least k with v < 2^k. -/
def bitlen (v : Nat) : Nat :=
  if v = 0 then 0 else Nat.log2 v + 1

/-- `low(v, k)` of R13: the low k bits of v. -/
def low (v k : Nat) : Nat := v % 2 ^ k

end Sys2Proof.Machine
end

