-- ==== Sys2Proof/Machine/Flags.lean ====
section
/-! DEFINITION. STATUS as the host reads it (10_state.md R26, R30) and the error codes
(60_exceptions.md R180). The engine has no arithmetic flags (R26). -/

namespace Sys2Proof.Machine

/-- The code each exception leaves in STATUS.ERR (R180). -/
def Exc.code : Exc → BitVec 8
  | .illegal => 0x01
  | .range => 0x02
  | .overflow => 0x03
  | .noInverse => 0x04
  | .keyGen => 0x05
  | .noKey => 0x06
  | .keyLocked => 0x07
  | .domain => 0x08

/-- E_NONE, the code of success (R180). -/
def errNone : BitVec 8 := 0x00

/-- STATUS: ERR in bits 15:8, KEYVALID in bit 1, BUSY in bit 0, all other bits 0 (R26, R30). -/
def State.status (s : State) : Word :=
  (0#48 ++ s.err ++ 0#6 ++ BitVec.ofBool s.keyValid ++ BitVec.ofBool s.busy : BitVec 64)

end Sys2Proof.Machine
end

