-- ==== Sys2Proof/Machine/Operands.lean ====
section
/-! DEFINITION. Register access: the window's offsets (10_state.md R20), a register's 64 bits as the
host reads them (20_memory.md R53, R56), the implicit operands of the commands as signed integers
(30_encoding.md R72, 00_scope.md R14), and the byte lanes of R58. -/

namespace Sys2Proof.Machine

/-- Offset of a register in the window (R20, 30_encoding.md R79 `off`). -/
def Reg.offset : Reg → Nat
  | .cmd => 0x00
  | .status => 0x08
  | .opa => 0x10
  | .opb => 0x18
  | .opm => 0x20
  | .res => 0x28
  | .ke => 0x30
  | .kn => 0x38
  | .kd => 0x40

/-- The register at an offset of the window, if one starts there (R20). -/
def regAtOffset (off : Nat) : Option Reg :=
  match off with
  | 0x00 => some .cmd
  | 0x08 => some .status
  | 0x10 => some .opa
  | 0x18 => some .opb
  | 0x20 => some .opm
  | 0x28 => some .res
  | 0x30 => some .ke
  | 0x38 => some .kn
  | 0x40 => some .kd
  | _ => none

/-- An access is admitted when it is 8 bytes wide, aligned, and inside the window (R53 to R55). -/
def admitted (base addr size : Nat) : Bool :=
  size == 8 && addr % 8 == 0 && decide (base ≤ addr) && decide (addr < base + Config.window)

/-- The register an access reaches; `none` for a refused access (R55). -/
def windowReg (base addr size : Nat) : Option Reg :=
  if admitted base addr size then regAtOffset (addr - base) else none

/-- The 64 bits a host read of a register returns (R53); CMD reads 0 (R56). -/
def readReg (r : Reg) (s : State) : Word :=
  match r with
  | .cmd => 0
  | .status => s.status
  | .opa => s.opa
  | .opb => s.opb
  | .opm => s.opm
  | .res => s.res
  | .ke => s.ke
  | .kn => s.kn
  | .kd => s.kd

/-- The byte lane at an offset of the window: bits 7:0 of a register lowest (R58). -/
def windowByte (off : Nat) (s : State) : Option Byte :=
  (regAtOffset (off - off % 8)).map (fun r => (readReg r s).extractLsb' (8 * (off % 8)) 8)

/-- x[OPA] (R21, R72). -/
def opA (s : State) : Int := s.opa.toInt

/-- x[OPB] (R22, R72). -/
def opB (s : State) : Int := s.opb.toInt

/-- x[OPM] (R23, R72). -/
def opM (s : State) : Int := s.opm.toInt

/-- x[KE] (R31). -/
def keyE (s : State) : Int := s.ke.toInt

/-- x[KN] (R32). -/
def keyN (s : State) : Int := s.kn.toInt

/-- x[KD] (R33). -/
def keyD (s : State) : Int := s.kd.toInt

end Sys2Proof.Machine
end

