-- ==== Sys2Proof/Machine/Ops.lean ====
section
/-! DEFINITION. The named operations on the state: ending a command by success or by `raise`
(60_exceptions.md R190), writing results, drawing random words (00_scope.md R15), and the host's
accesses to the window (20_memory.md R53 to R56). -/

namespace Sys2Proof.Machine

/-- STATUS.ERR <- code, STATUS.BUSY <- 0: the end of every command (10_state.md R27, R29). -/
def finish (code : BitVec 8) (s : State) : State :=
  { s with err := code, busy := false }

/-- The last line of a command that succeeds: STATUS.ERR <- 0, STATUS.BUSY <- 0. -/
def succeed (s : State) : State := finish errNone s

/-- Taking an exception: `raise X` writes its code to STATUS.ERR, clears BUSY and changes nothing else.
There is no saved state and no transfer of control (R190), hence no return from it (R195). -/
def raise (x : Exc) (s : State) : State := finish x.code s

/-- x[RES] <- v (10_state.md R24). -/
def writeRes (v : Int) (s : State) : State :=
  { s with res := BitVec.ofInt 64 v }

/-- The end of a command whose result goes to RES: the value, or the exception raised. -/
def finishRes (r : Except Exc Int) (s : State) : State :=
  match r with
  | .ok v => succeed (writeRes v s)
  | .error x => raise x s

/-- A key (e, n, d) as KEYGEN computes it (44_keygen.md R138). -/
structure Key where
  e : Int
  n : Int
  d : Int
  deriving DecidableEq, Repr

/-- KE, KN, KD and KEYVALID, written together (44_keygen.md R139). -/
def writeKey (k : Key) (s : State) : State :=
  { s with ke := BitVec.ofInt 64 k.e, kn := BitVec.ofInt 64 k.n, kd := BitVec.ofInt 64 k.d,
           keyValid := true }

/-- The random words up to `rest` are consumed and counted (40_primegen.md R96, 70 R226). -/
def consume (rest : List Word) (s : State) : State :=
  { s with rngWords := rest, rngUsed := s.rngUsed + (s.rngWords.length - rest.length) }

/-- The random source's turn: the running command has no word left to draw, so the source delivers
its next one, if it ever does; the engine's registers stand, BUSY = 1 (40_primegen.md R95,
70 R219; log 3). -/
def awaitWord (s : State) : State :=
  { s with rngWords := s.rngWords ++ (Config.rngStream (s.rngUsed + s.rngWords.length)).toList }

/-- The first `k` of the words to come are consumed (70 R212). -/
def dropWords (k : Nat) (s : State) : State := consume (s.rngWords.drop k) s

/-- A response on the host port (R53 to R56). -/
def reply (r : Reply) (s : State) : State :=
  { s with replies := r :: s.replies }

/-- The environment's actions still to come. -/
def setHost (h : List HostEvent) (s : State) : State :=
  { s with host := h }

/-- Command accept: CMDREG <- w, STATUS.BUSY <- 1, nothing else (10_state.md R25). -/
def accept (w : Word) (s : State) : State :=
  { s with cmdreg := w, busy := true }

/-- The effect of an admitted 64-bit write (R54): none on a read-only register (R56), none while
BUSY = 1 (70 R218), command accept for CMD, else the operand register takes all 64 bits. -/
def writeReg (r : Reg) (v : Word) (s : State) : State :=
  match r with
  | .status | .res | .ke | .kn | .kd => s
  | .cmd => if s.busy then s else accept v s
  | .opa => if s.busy then s else { s with opa := v }
  | .opb => if s.busy then s else { s with opb := v }
  | .opm => if s.busy then s else { s with opm := v }

/-- `MemRead(addr, size)` (R53, R55). -/
def hostRead (base addr size : Nat) (s : State) : State :=
  match windowReg base addr size with
  | some r => reply (.data (readReg r s)) s
  | none => reply .busError s

/-- `MemWrite(addr, size, v)` (R54, R55). -/
def hostWrite (base addr size : Nat) (v : Word) (s : State) : State :=
  match windowReg base addr size with
  | some r => reply .done (writeReg r v s)
  | none => reply .busError s

/-- Every register of the engine at its reset value, the environment's fields as they are
(10_state.md R41, 70 R210, R214). -/
def clearRegs (s : State) : State :=
  { State.reset with rngWords := s.rngWords, rngUsed := s.rngUsed, host := s.host, replies := s.replies }

end Sys2Proof.Machine
end

