-- ==== Sys2Proof/Machine/Modexp.lean ====
section
/-! DEFINITION. The modular multiplier, the modular exponentiation and MODEXP (43_modexp.md R120 to
R130). -/

namespace Sys2Proof.Machine

/-- `mulmod(a, b, m)` of R120: the exact product, checked, then reduced. -/
def mulmod (a b m : Int) : Except Exc Int := do
  let t ← chk (a * b)
  .ok (t % m)

/-- The loop of R123 on (result, base, exp): a multiply step for a set bit, a square step while bits
remain. `fuel` only makes the recursion structural: the loop runs bitlen(exp) times (R128; log 10). -/
def modExpLoop : Nat → Int → Int → Int → Int → Except Exc Int
  | 0, _, result, _, _ => .ok result
  | fuel + 1, m, result, base, exp =>
    if exp > 0 then do
      let result ← if exp % 2 = 1 then mulmod result base m else .ok result
      let exp := exp / 2
      let base ← if exp > 0 then mulmod base base m else .ok base
      modExpLoop fuel m result base exp
    else .ok result

/-- `modExp(b, e, m)` of R123. -/
def modExp (b e m : Int) : Except Exc Int :=
  if e < 0 then .error .range
  else if m ≤ 0 then .error .range
  else if b < 0 then .error .range
  else if m = 1 then .ok 0
  else modExpLoop (bitlen e.toNat) m 1 (b % m) e

/-- MODEXP (R122): RES <- modExp(OPA, OPB, OPM). -/
def execModexp (s : State) : Host.Outcome State Fault Refusal :=
  .next (finishRes (modExp (opA s) (opB s) (opM s)) s)

end Sys2Proof.Machine
end

