-- ==== Sys2Proof/Machine/Encdec.lean ====
section
/-! DEFINITION. Integer encryption and decryption, ENC and DEC (45_encdec.md R150 to R156). -/

namespace Sys2Proof.Machine

/-- The one primitive of both commands (43_modexp.md R130): NoKey, then Domain, then modExp with the
given exponent and modulus KN (R150, R152). -/
def cryptWith (exponent : Int) (s : State) : Except Exc Int :=
  if s.keyValid = false then .error .noKey
  else if opA s < 0 ∨ opA s ≥ keyN s then .error .domain
  else modExp (opA s) exponent (keyN s)

/-- ENC (R150): RES <- modExp(OPA, KE, KN). -/
def execEnc (s : State) : Host.Outcome State Fault Refusal :=
  .next (finishRes (cryptWith (keyE s) s) s)

/-- DEC (R152): RES <- modExp(OPA, KD, KN). -/
def execDec (s : State) : Host.Outcome State Fault Refusal :=
  .next (finishRes (cryptWith (keyD s) s) s)

end Sys2Proof.Machine
end

