-- ==== Sys2Proof/Machine/Modinv.lean ====
section
/-! DEFINITION. The modular inverse and MODINV (42_modinv.md R110 to R116). -/

namespace Sys2Proof.Machine

/-- The loop of R111 on (r0, r1) and (s0, s1); the result is (r0, s0) at its end. `fuel` only makes
the recursion structural: r1 falls at every pass and stays >= 0, so more than r1 suffices (log 10). -/
def modInvLoop : Nat → Int → Int → Int → Int → Except Exc (Int × Int)
  | 0, r0, _, s0, _ => .ok (r0, s0)
  | fuel + 1, r0, r1, s0, s1 =>
    if r1 = 0 then .ok (r0, s0)
    else do
      let q := r0 / r1
      let r2 ← chk (r0 - (← chk (q * r1)))
      let s2 ← chk (s0 - (← chk (q * s1)))
      modInvLoop fuel r1 r2 s1 s2

/-- `modInv(a, m)` of R111. -/
def modInv (a m : Int) : Except Exc Int :=
  if m ≤ 0 then .error .range
  else if a < 0 then .error .range
  else if m = 1 then .ok 0
  else do
    let (r0, x) ← modInvLoop (m.toNat + 1) a m 1 0
    if r0 ≠ 1 then .error .noInverse
    else if x < 0 then chk (x + m)
    else .ok x

/-- MODINV (R110): RES <- modInv(OPA, OPM). -/
def execModinv (s : State) : Host.Outcome State Fault Refusal :=
  .next (finishRes (modInv (opA s) (opM s)) s)

end Sys2Proof.Machine
end

