-- ==== Sys2Proof/Machine/Isprime.lean ====
section
/-! DEFINITION. The primality tester and ISPRIME (41_isprime.md R100 to R103). -/

namespace Sys2Proof.Machine

/-- The loop of R101 from trial divisor i on: while i <= n div i, test i and i + 2, then i + 6.
`fuel` only makes the recursion structural; n steps are more than the loop ever takes (log 10). -/
def trialLoop : Nat → Int → Int → Bool
  | 0, _, _ => true
  | fuel + 1, n, i =>
    if i ≤ n / i then
      if n % i = 0 ∨ n % (i + 2) = 0 then false else trialLoop fuel n (i + 6)
    else true

/-- `isPrime(n)` of R101, for any integer n. -/
def isPrime (n : Int) : Bool :=
  if n ≤ 1 then false
  else if n ≤ 3 then true
  else if n % 2 = 0 ∨ n % 3 = 0 then false
  else trialLoop n.toNat n 5

/-- ISPRIME (R100): RES <- 1 or 0; it cannot fail. -/
def execIsprime (s : State) : Host.Outcome State Fault Refusal :=
  .next (finishRes (.ok (if isPrime (opA s) then 1 else 0)) s)

end Sys2Proof.Machine
end

