-- ==== Sys2Proof/Machine/Primegen.lean ====
section
/-! DEFINITION. The prime sampler and PRIMEGEN (40_primegen.md R90 to R97). -/

namespace Sys2Proof.Machine

/-- One pass of `drawCandidate` (R92) on the word w: PRIME_LO + v for v = low(w, k) below N, and
`none` where the word is discarded. -/
def candidateOf (P : Params) (w : Word) : Option Int :=
  let n := P.primeHi - P.primeLo
  let v := low w.toNat (bitlen (n - 1).toNat)
  if (v : Int) < n then some (P.primeLo + v) else none

/-- `samplePrime` (R91) over the words the source delivers: the first candidate that is prime, and
the words left. The two retry loops of R91 and R92 are one recursion, since each retry draws the next
word. `none`: the words do not suffice, so the command has not ended (R95). -/
def samplePrime (P : Params) : List Word → Option (Int × List Word)
  | [] => none
  | w :: ws =>
    match candidateOf P w with
    | none => samplePrime P ws
    | some c => if isPrime c then some (c, ws) else samplePrime P ws

/-- PRIMEGEN (R90) for an instance with parameters P. -/
def primegenWith (P : Params) (s : State) : State :=
  match samplePrime P s.rngWords with
  | none => awaitWord s
  | some (p, rest) => finishRes (.ok p) (consume rest s)

/-- PRIMEGEN (R90) on this hardware. -/
def execPrimegen (s : State) : Host.Outcome State Fault Refusal :=
  .next (primegenWith Config.params s)

end Sys2Proof.Machine
end

