-- ==== Sys2Proof/Machine/Keygen.lean ====
section
/-! DEFINITION. Key construction and KEYGEN (44_keygen.md R135 to R144). -/

namespace Sys2Proof.Machine

/-- p is sampled first, then q (R137); `none` while the words do not suffice (R135, 40 R95). -/
def samplePair (P : Params) (ws : List Word) : Option (Int × Int × List Word) :=
  match samplePrime P ws with
  | none => none
  | some (p, rest) =>
    match samplePrime P rest with
    | none => none
    | some (q, rest') => some (p, q, rest')

/-- The key of the primes p and q (R138), or the failure of R140; NoInverse becomes KeyGen. -/
def keyFrom (P : Params) (p q : Int) : Except Exc Key :=
  if p = q then .error .keyGen
  else do
    let n ← chk (p * q)
    let phi ← chk ((p - 1) * (q - 1))
    match modInv P.ePub phi with
    | .ok d => .ok { e := P.ePub, n := n, d := d }
    | .error .noInverse => .error .keyGen
    | .error x => .error x

/-- KEYGEN (R135) for an instance with parameters P. -/
def keygenWith (P : Params) (s : State) : State :=
  if s.keyValid then raise .keyLocked s
  else
    match samplePair P s.rngWords with
    | none => awaitWord s
    | some (p, q, rest) =>
      match keyFrom P p q with
      | .error x => raise x (consume rest s)
      | .ok k => succeed (writeKey k (consume rest s))

/-- KEYGEN (R135) on this hardware. -/
def execKeygen (s : State) : Host.Outcome State Fault Refusal :=
  .next (keygenWith Config.params s)

end Sys2Proof.Machine
end

