-- ==== Sys2Proof/Machine/Engine.lean ====
section
/-! DEFINITION. The engine's completion step (70_reset_and_hazards.md R219), reset (R210 to R214), the
host's statements (30_encoding.md R79, R80), and one step of the whole system (20_memory.md R60). -/

namespace Sys2Proof.Machine

/-- The completion step (R219): enabled exactly when BUSY = 1; an illegal word raises Illegal; with
BUSY = 0 nothing is enabled and the state stands (log 11). -/
def engineStep (s : State) : Host.Outcome State Fault Refusal :=
  if s.busy then
    match decode s.cmdreg with
    | .ok i => exec i s
    | .error _ => .next (raise .illegal s)
  else .next s

/-- How many of the words to come the running command draws at most before it ends; 0 when no
command that draws is running (00_scope.md R15, 44_keygen.md R136). -/
def drawLimit (s : State) : Nat :=
  if s.busy then
    match decode s.cmdreg with
    | .ok .primegen =>
      match samplePrime Config.params s.rngWords with
      | some (_, rest) => s.rngWords.length - rest.length
      | none => s.rngWords.length
    | .ok .keygen =>
      if s.keyValid then 0
      else
        match samplePair Config.params s.rngWords with
        | some (_, _, rest) => s.rngWords.length - rest.length
        | none => s.rngWords.length
    | _ => 0
  else 0

/-- Reset (R210): every register 0; a running command is abandoned and the words it had drawn stay
consumed (R212; log 6); the random source is not rewound (R214). -/
def assertReset (drawn : Nat) (s : State) : State :=
  clearRegs (dropWords (min drawn (drawLimit s)) s)

/-- `RD STATUS`, after which the host goes on with `h` (30_encoding.md R79). -/
def pollStatus (h : List HostEvent) (s : State) : State :=
  hostRead Config.base (Config.base + Reg.status.offset) 8 (setHost h s)

/-- One step of the whole system (20_memory.md R60): the environment's next action takes effect, and
where it leaves the turn to the engine (no action left, `pause`, a `wait` whose busy reads are done)
the engine's completion step runs. A `wait` reads STATUS any number of times with BUSY = 1, again
after each turn of the engine that leaves BUSY = 1, and ends with the read that sees BUSY = 0
(30_encoding.md R79; log 5). -/
def systemStep (s : State) : Host.Outcome State Fault Refusal :=
  match s.host with
  | [] => engineStep s
  | .pause :: rest => engineStep (setHost rest s)
  | .wait busyReads :: rest =>
    if s.busy then
      match busyReads with
      | 0 => engineStep (setHost (.wait 1 :: rest) s)
      | k + 1 => .next (pollStatus (.wait k :: rest) s)
    else .next (pollStatus rest s)
  | .read addr size :: rest => .next (hostRead Config.base addr size (setHost rest s))
  | .write addr size v :: rest => .next (hostWrite Config.base addr size v (setHost rest s))
  | .reset drawn :: rest => .next (assertReset drawn (setHost rest s))

/-- The state in which the engine is about to complete the command word w: w latched in CMDREG and
BUSY = 1, as after command accept (10_state.md R25), and the engine's turn (log 12). -/
def placeWord (w : Word) (s : State) : State :=
  setHost (match s.host with | [] => [] | h => .pause :: h) (accept w s)

/-- `WR reg, v` (30_encoding.md R79). -/
def wr (r : Reg) (v : Word) : HostEvent := .write (Config.base + r.offset) 8 v

/-- `RD reg` (R79). -/
def rd (r : Reg) : HostEvent := .read (Config.base + r.offset) 8

/-- `CMD mnemonic` (R79). -/
def cmd (i : Instr) : HostEvent := wr .cmd (encode i)

/-! The macros of R80 are the table's expansions: they read RES whatever ERR is, where the rule's prose
says "on ERR = 0" (log 17). `n` is the number of reads of their WAIT that see BUSY = 1 (log 5). -/

/-- Macro PRIMEGEN (R80; log 17). -/
def macroPrimegen (n : Nat) : List HostEvent := [cmd .primegen, .wait n, rd .res]

/-- Macro ISPRIME v (R80; log 17). -/
def macroIsprime (n : Nat) (v : Word) : List HostEvent := [wr .opa v, cmd .isprime, .wait n, rd .res]

/-- Macro MODINV a, m (R80; log 17). -/
def macroModinv (n : Nat) (a m : Word) : List HostEvent :=
  [wr .opa a, wr .opm m, cmd .modinv, .wait n, rd .res]

/-- Macro MODEXP b, e, m (R80; log 17). -/
def macroModexp (n : Nat) (b e m : Word) : List HostEvent :=
  [wr .opa b, wr .opb e, wr .opm m, cmd .modexp, .wait n, rd .res]

/-- Macro KEYGEN (R80). -/
def macroKeygen (n : Nat) : List HostEvent := [cmd .keygen, .wait n]

/-- Macro PUBKEY (R80). -/
def macroPubkey : List HostEvent := [rd .ke, rd .kn]

/-- Macro PRIVKEY (R80). -/
def macroPrivkey : List HostEvent := [rd .kd, rd .kn]

/-- Macro ENC v (R80; log 17). -/
def macroEnc (n : Nat) (v : Word) : List HostEvent := [wr .opa v, cmd .enc, .wait n, rd .res]

/-- Macro DEC v (R80; log 17). -/
def macroDec (n : Nat) (v : Word) : List HostEvent := [wr .opa v, cmd .dec, .wait n, rd .res]

end Sys2Proof.Machine
end

