-- ==== Sys2Proof/Machine/Step.lean ====
section
/-! DEFINITION. One step of the machine, and the state that is about to complete a given word. -/

namespace Sys2Proof.Machine

/-- One step of the system: the environment's next action, or the engine's completion step
(20_memory.md R60, 70_reset_and_hazards.md R219). -/
def step (s : State) : Host.Outcome State Fault Refusal := systemStep s

/-- s with the command word latched and accepted, so that the next step completes it (log 12). -/
def State.withFetchWord (s : State) (nbits w : Nat) : State :=
  placeWord (BitVec.ofNat 64 (w % 2 ^ nbits)) s

end Sys2Proof.Machine
end

