-- ==== Sys2Proof/Machine/Codecs.lean ====
section
/-! DEFINITION. The host procedures of 46_host_codecs.md (R160 to R171): string processing on the host
around the commands ENC and DEC. They are not hardware (R160, 00_scope.md R4); they drive the engine
through the same operations as the host port does (log 13). -/

namespace Sys2Proof.Machine

/-- A string of byte characters, codes 0 to 255 (R164). -/
abbrev Text := List Byte

/-- How a procedure fails (R170). -/
inductive HostError where
  /-- A malformed token, which it identifies. -/
  | decodeError (token : Text)
  /-- The engine reported E_DOMAIN. -/
  | outOfDomain
  /-- The engine reported E_NOKEY. -/
  | noKey
  /-- Any other code of the engine, under its own number (92_eei_decisions.md D31). -/
  | engine (code : BitVec 8)
  deriving DecidableEq, Repr

/-- The host's error for a code of STATUS.ERR (R170). -/
def hostErrorOf (code : BitVec 8) : HostError :=
  if code = Exc.domain.code then .outOfDomain
  else if code = Exc.noKey.code then .noKey
  else .engine code

/-- Whitespace: tab, line feed, vertical tab, form feed, carriage return, space (R161). -/
def isSpace (b : Byte) : Bool := b == 0x20 || (decide (0x09 ≤ b.toNat) && decide (b.toNat ≤ 0x0D))

/-- The token read so far, if it is one. -/
def flush (cur : Text) : List Text := if cur = [] then [] else [cur]

/-- The tokens of a text whose current token so far is `cur`. -/
def tokensFrom (cur : Text) : Text → List Text
  | [] => flush cur
  | b :: bs => if isSpace b then flush cur ++ tokensFrom [] bs else tokensFrom (cur ++ [b]) bs

/-- The maximal runs of non-whitespace characters, in order (R161). -/
def tokens (t : Text) : List Text := tokensFrom [] t

/-- One space between consecutive tokens (R161). -/
def join : List Text → Text
  | [] => []
  | [t] => t
  | t :: u :: us => t ++ 0x20 :: join (u :: us)

/-- The character of a decimal or binary digit. -/
def digitChar (d : Nat) : Byte := BitVec.ofNat 8 (0x30 + d)

/-- The digits of n, most significant first, before `acc`; `fuel` makes the recursion structural. -/
def decimalDigits : Nat → Nat → Text → Text
  | 0, _, acc => acc
  | fuel + 1, n, acc =>
    if n / 10 = 0 then digitChar (n % 10) :: acc
    else decimalDigits fuel (n / 10) (digitChar (n % 10) :: acc)

/-- `decimal(c)` of R163. -/
def decimal (c : Nat) : Text := decimalDigits (c + 1) c []

/-- A decimal digit's character. -/
def isDigit (b : Byte) : Bool := decide (0x30 ≤ b.toNat) && decide (b.toNat ≤ 0x39)

/-- The base-`k` value of a string of digits after a prefix of value `acc`. -/
def digitsValue (k : Nat) (acc : Nat) : Text → Nat
  | [] => acc
  | b :: bs => digitsValue k (acc * k + (b.toNat - 0x30)) bs

/-- `parseDecimal(t)` of R163; `none` for a malformed token. -/
def parseDecimal (t : Text) : Option Int :=
  if t ≠ [] ∧ t.all isDigit ∧ (digitsValue 10 0 t : Int) ≤ int64Max then
    some (digitsValue 10 0 t) else none

/-- `binToInt(t)` of R167 for a token of width 1 to 63; `none` for a malformed token. -/
def binToInt (t : Text) : Option Int :=
  if t ≠ [] ∧ t.length ≤ 63 ∧ t.all (fun b => b == 0x30 || b == 0x31) then
    some (digitsValue 2 0 t) else none

/-- `fixedBin(v, w)` of R167: the low w bits of v, most significant first. -/
def fixedBin (v : Nat) : Nat → Text
  | 0 => []
  | w + 1 => digitChar (v / 2 ^ w % 2) :: fixedBin v w

/-- The state after the engine's completion step. -/
def engineNext (s : State) : State :=
  match engineStep s with
  | .next t => t
  | _ => s

/-- One call of the macro `ENC v` or `DEC v` (30_encoding.md R80): write OPA, write CMD, wait, then
read STATUS.ERR and, on ERR = 0, RES (log 17). A host calls it with BUSY = 0 (log 13). -/
def unitCall (i : Instr) (v : Int) (s : State) : State × Except HostError Int :=
  let t := engineNext (writeReg .cmd (encode i) (writeReg .opa (BitVec.ofInt 64 v) s))
  (t, if t.err = errNone then .ok t.res.toInt else .error (hostErrorOf t.err))

/-- A procedure works its units strictly in order, one command each; the first failure ends it with
no output (R160, R170). -/
def overUnits {α : Type} (f : α → State → State × Except HostError Text) :
    List α → State → State × Except HostError (List Text)
  | [], s => (s, .ok [])
  | u :: us, s =>
    match f u s with
    | (t, .error e) => (t, .error e)
    | (t, .ok out) =>
      match overUnits f us t with
      | (t', .error e) => (t', .error e)
      | (t', .ok outs) => (t', .ok (out :: outs))

/-- One character of `encryptText` (R162). -/
def encryptChar (b : Byte) (s : State) : State × Except HostError Text :=
  match unitCall .enc b.toNat s with
  | (t, .ok c) => (t, .ok (decimal c.toNat))
  | (t, .error e) => (t, .error e)

/-- One token of `decryptText` (R165). -/
def decryptDecimal (tok : Text) (s : State) : State × Except HostError Text :=
  match parseDecimal tok with
  | none => (s, .error (.decodeError tok))
  | some c =>
    match unitCall .dec c s with
    | (t, .ok v) => if v > 255 then (t, .error (.decodeError tok)) else (t, .ok [BitVec.ofInt 8 v])
    | (t, .error e) => (t, .error e)

/-- One token of a bit-string procedure (R168, R169): the command's result in the token's width. -/
def binaryUnit (i : Instr) (tok : Text) (s : State) : State × Except HostError Text :=
  match binToInt tok with
  | none => (s, .error (.decodeError tok))
  | some v =>
    match unitCall i v s with
    | (t, .ok c) => (t, .ok (fixedBin c.toNat tok.length))
    | (t, .error e) => (t, .error e)

/-- `encryptText(text)` (R162). -/
def encryptText (text : Text) (s : State) : State × Except HostError Text :=
  match overUnits encryptChar text s with
  | (t, .ok outs) => (t, .ok (join outs))
  | (t, .error e) => (t, .error e)

/-- `decryptText(tokenStream)` (R165). -/
def decryptText (text : Text) (s : State) : State × Except HostError Text :=
  match overUnits decryptDecimal (tokens text) s with
  | (t, .ok outs) => (t, .ok outs.flatten)
  | (t, .error e) => (t, .error e)

/-- `encryptBinaryTokens(codeStream)` (R168). -/
def encryptBinaryTokens (text : Text) (s : State) : State × Except HostError Text :=
  match overUnits (binaryUnit .enc) (tokens text) s with
  | (t, .ok outs) => (t, .ok (join outs))
  | (t, .error e) => (t, .error e)

/-- `decryptBinaryTokens(tokenStream)` (R169). -/
def decryptBinaryTokens (text : Text) (s : State) : State × Except HostError Text :=
  match overUnits (binaryUnit .dec) (tokens text) s with
  | (t, .ok outs) => (t, .ok (join outs))
  | (t, .error e) => (t, .error e)

end Sys2Proof.Machine
end

