-- ==== Sys2Proof/Machine/Construct.lean ====
section
/-! DEFINITION. The host's rendering of the source's constructor: issue KEYGEN, and again while it ends
with E_KEYGEN (70_reset_and_hazards.md R217; log 13). -/

namespace Sys2Proof.Machine

/-- The host loop of R217. It ends at the first KEYGEN that does not end with E_KEYGEN, or stands at
one that is still waiting for random words. `fuel` only makes the recursion structural. -/
def constructLoop : Nat → State → State
  | 0, s => s
  | fuel + 1, s =>
    let t := engineNext (writeReg .cmd (encode .keygen) s)
    if t.busy = false ∧ t.err = Exc.keyGen.code then constructLoop fuel t else t

/-- "Construct a key pair with no parameters" (R217), as far as the words to come carry it. Every
attempt that ends with E_KEYGEN consumes a word, so there are fewer of them than words. -/
def constructKey (s : State) : State := constructLoop (s.rngWords.length + 1) s

end Sys2Proof.Machine
end

