-- ==== Sys2Proof/Safety.lean ====
section
/-! DEFINITION. What claims about the engine speak of: keys, the machine's invariant, the end of a run,
and the accepting words of the sampler, each in terms independent of the algorithms. -/

namespace Sys2Proof.Machine

/-- (e, n, d) is a key of an instance with parameters P (44_keygen.md R142): two distinct primes of
the range with n = p*q and e*d = 1 modulo (p-1)(q-1). -/
def IsKey (P : Params) (e n d : Int) : Prop :=
  ∃ p q : Nat, Nat.Prime p ∧ Nat.Prime q ∧ p ≠ q ∧
    P.primeLo ≤ p ∧ (p : Int) < P.primeHi ∧ P.primeLo ≤ q ∧ (q : Int) < P.primeHi ∧
    e = P.ePub ∧ n = p * q ∧ 0 ≤ d ∧ d < ((p : Int) - 1) * (q - 1) ∧
    e * d % (((p : Int) - 1) * (q - 1)) = 1

/-- Key immutability's two cases (10_state.md R34): no key and three zeros, or the values one
successful KEYGEN computed together. -/
def State.KeyInv (s : State) : Prop :=
  (s.keyValid = false ∧ s.ke = 0 ∧ s.kn = 0 ∧ s.kd = 0) ∨
    (s.keyValid = true ∧ IsKey Config.params (keyE s) (keyN s) (keyD s))

/-- "Codes 0x09 to 0xFF are never produced" (60_exceptions.md R180). -/
def State.ErrInv (s : State) : Prop := s.err.toNat ≤ 8

/-- The machine's invariant. -/
def State.Inv (s : State) : Prop := s.KeyInv ∧ s.ErrInv

/-- A run has ended: no access is left and BUSY = 0 (70_reset_and_hazards.md R226). -/
def State.Ended (s : State) : Prop := s.host = [] ∧ s.busy = false

/-- The engine has the turn in s, and the host then goes on with h: nothing is left for the host, it
pauses, or its WAIT has done its busy reads (20_memory.md R60, 30_encoding.md R79; log 5). -/
def State.EngineTurn (s : State) (h : List HostEvent) : Prop :=
  (s.host = [] ∧ h = []) ∨ s.host = .pause :: h ∨
    ∃ rest, s.host = .wait 0 :: rest ∧ h = .wait 1 :: rest

/-- With this hardware's parameters the word w gives the prime p: bits 9:0 are v < 900 and
p = 100 + v is prime (40_primegen.md R92, R95). -/
def GivesPrime (w : Word) (p : Nat) : Prop :=
  w.toNat % 1024 < 900 ∧ p = 100 + w.toNat % 1024 ∧ Nat.Prime p

/-- With this hardware's parameters the word w gives no prime and is passed over. -/
def PassedOver (w : Word) : Prop := ∀ p, ¬ GivesPrime w p

/-- The words give no prime, or one only (44_keygen.md R137). -/
def FewerThanTwoPrimes (ws : List Word) : Prop :=
  (∀ x ∈ ws, PassedOver x) ∨
    ∃ pre w p rest, ws = pre ++ w :: rest ∧ (∀ x ∈ pre, PassedOver x) ∧ GivesPrime w p ∧
      ∀ x ∈ rest, PassedOver x

/-- The words drive KEYGEN to the primes p and q and are used up by it (44_keygen.md R137). -/
def GivesPair (ws : List Word) (p q : Nat) : Prop :=
  ∃ pre₁ w₁ pre₂ w₂, ws = pre₁ ++ w₁ :: (pre₂ ++ [w₂]) ∧
    (∀ x ∈ pre₁, PassedOver x) ∧ GivesPrime w₁ p ∧ (∀ x ∈ pre₂, PassedOver x) ∧ GivesPrime w₂ q

/-- The words of some number of KEYGENs that each sampled one prime twice (44_keygen.md R140 a). -/
inductive FailedAttempts : List Word → Prop where
  | none : FailedAttempts []
  | more {ws rest : List Word} {p : Nat} :
      GivesPair ws p p → FailedAttempts rest → FailedAttempts (ws ++ rest)

/-- The command running in s can have drawn the first n of the words to come: a sampler is running,
and the words before the n-th had not ended it (40_primegen.md R91, R96, 44_keygen.md R136, R137). -/
def State.MayHaveDrawn (s : State) (n : Nat) : Prop :=
  s.busy = true ∧ n ≤ s.rngWords.length ∧
    ((decode s.cmdreg = .ok .primegen ∧ ∀ x ∈ s.rngWords.take (n - 1), PassedOver x) ∨
      (decode s.cmdreg = .ok .keygen ∧ s.keyValid = false ∧
        FewerThanTwoPrimes (s.rngWords.take (n - 1))))

/-- Some product that modExp(b, e, m) forms exceeds INT64_MAX: at bit j of e the multiply step, if the
bit is set, or the square step, if a higher bit remains (43_modexp.md R123, R127). -/
def ProductOverflows (b : Int) (e : Nat) (m : Int) : Prop :=
  ∃ j : Nat,
    (e.testBit j = true ∧ int64Max < b ^ (e % 2 ^ j) % m * (b ^ 2 ^ j % m)) ∨
      (2 ^ (j + 1) ≤ e ∧ int64Max < b ^ 2 ^ j % m * (b ^ 2 ^ j % m))

/-- The value of a bit-string token, 0 for a malformed one (46_host_codecs.md R167). -/
def tokenValue (tok : Text) : Int := (binToInt tok).getD 0

end Sys2Proof.Machine
end

