-- ==== Sys2Proof/Certificates/Slice0/Obligations.lean ====
section
/-! DEFINITION. The statements for the provers, each from the numbered rules its docstring names.
Results are stated in Mathlib's terms (Nat.Prime, Int.gcd, powers, remainders), and next states as
record updates of the state before. -/

open Sys2Proof Sys2Proof.Machine

/-! ## Encoding -/

/-- R71: decode is total; each of the seven words gives its command and no other word gives one; the
legal words are 1 to 7. -/
def Obligations.DecodeIsTheOpcodeMap : Prop :=
  (∀ w : Word,
      (decode w = .ok .primegen ↔ w = 0x1) ∧ (decode w = .ok .isprime ↔ w = 0x2) ∧
      (decode w = .ok .modinv ↔ w = 0x3) ∧ (decode w = .ok .modexp ↔ w = 0x4) ∧
      (decode w = .ok .keygen ↔ w = 0x5) ∧ (decode w = .ok .enc ↔ w = 0x6) ∧
      (decode w = .ok .dec ↔ w = 0x7)) ∧
    (∀ w : Word, (w.extractLsb' 8 56 ≠ 0 → ∃ e, decode w = .error e) ∧
      ((∃ i, decode w = .ok i) ↔ 1 ≤ w.toNat ∧ w.toNat ≤ 7))

/-- R70, R74, R58: as the window's bytes, encoding and decoding are inverse to each other, for every
command and every byte list, whatever bytes follow. -/
def Obligations.DecodeEncodeAgree : Prop :=
  (∀ (i : Instr) (rest : List Byte), decodeBytes (encodeBytes i ++ rest) = .ok (i, rest)) ∧
    (∀ (bs rest : List Byte) (i : Instr),
      decodeBytes bs = .ok (i, rest) → bs = encodeBytes i ++ rest)

/-- R74: the seven words of the opcode map, and the byte form of one of them. -/
def Obligations.CommandWordsDecode : Prop :=
  decode 0x0000000000000001 = .ok .primegen ∧ decode 0x0000000000000002 = .ok .isprime ∧
    decode 0x0000000000000003 = .ok .modinv ∧ decode 0x0000000000000004 = .ok .modexp ∧
    decode 0x0000000000000005 = .ok .keygen ∧ decode 0x0000000000000006 = .ok .enc ∧
    decode 0x0000000000000007 = .ok .dec ∧
    decodeBytes [0x05, 0x00, 0x00, 0x00, 0x00, 0x00, 0x00, 0x00] = .ok (.keygen, [])

/-! ## The step of the system -/

/-- R219, R60, R79: with BUSY = 1 and a legal word latched, the step in which the engine has the turn
is exec of the decoded command; a `pause` is used up, a WAIT goes on with a further read. -/
def Obligations.StepRunsDecodedCommand : Prop :=
  ∀ (s : State) (i : Instr), s.busy = true → decode s.cmdreg = .ok i →
    (s.host = [] → step s = exec i s) ∧
    (∀ rest, s.host = .pause :: rest → step s = exec i { s with host := rest }) ∧
    (∀ rest, s.host = .wait 0 :: rest → step s = exec i { s with host := .wait 1 :: rest })

/-- R181, R75, R190: an illegal word, whichever way it is illegal, ends in E_ILLEGAL and changes nothing
else of the engine. The forms of the engine's turn, a pause and a WAIT that goes on with a further read
among them, are the model's choice (log 4, log 5). -/
def Obligations.IllegalWordRaisesIllegal : Prop :=
  ∀ (s : State) (h : List HostEvent), s.busy = true → s.EngineTurn h →
    (s.cmdreg.extractLsb' 8 56 ≠ 0 ∨ (s.cmdreg.extractLsb' 0 8).toNat < 0x01 ∨
      0x07 < (s.cmdreg.extractLsb' 0 8).toNat) →
    step s = .next { s with err := 0x01, busy := false, host := h }

/-- R27, R210: with BUSY = 0 the engine's step is disabled, and without a host access nothing changes. -/
def Obligations.IdleEngineStands : Prop :=
  ∀ s : State, s.busy = false →
    (s.host = [] → step s = .next s) ∧
    (∀ rest, s.host = .pause :: rest → step s = .next { s with host := rest })

/-- R25: a write of w to CMD with BUSY = 0 latches w and sets BUSY, nothing else; with BUSY = 1 it is
ignored; a read returns 0 and has no effect. -/
def Obligations.CommandAccept : Prop :=
  ∀ (s : State) (w : Word) (rest : List HostEvent),
    (s.host = .write (Config.base + 0x00) 8 w :: rest → s.busy = false →
      step s = .next { s with cmdreg := w, busy := true, host := rest,
                              replies := .done :: s.replies }) ∧
    (s.host = .write (Config.base + 0x00) 8 w :: rest → s.busy = true →
      step s = .next { s with host := rest, replies := .done :: s.replies }) ∧
    (s.host = .read (Config.base + 0x00) 8 :: rest →
      step s = .next { s with host := rest, replies := .data 0 :: s.replies })

/-- R54: an admitted write responds OK; it has no effect on a read-only register or while BUSY = 1;
otherwise CMD accepts a command and an operand register takes all 64 bits. -/
def Obligations.AdmittedWrites : Prop :=
  ∀ (s : State) (v : Word) (rest : List HostEvent),
    (∀ off ∈ [0x08, 0x28, 0x30, 0x38, 0x40], s.host = .write (Config.base + off) 8 v :: rest →
      step s = .next { s with host := rest, replies := .done :: s.replies }) ∧
    (∀ off ∈ [0x00, 0x10, 0x18, 0x20], s.host = .write (Config.base + off) 8 v :: rest →
      s.busy = true → step s = .next { s with host := rest, replies := .done :: s.replies }) ∧
    (s.host = .write (Config.base + 0x00) 8 v :: rest → s.busy = false →
      step s = .next { s with cmdreg := v, busy := true, host := rest,
                              replies := .done :: s.replies }) ∧
    (s.host = .write (Config.base + 0x10) 8 v :: rest → s.busy = false →
      step s = .next { s with opa := v, host := rest, replies := .done :: s.replies }) ∧
    (s.host = .write (Config.base + 0x18) 8 v :: rest → s.busy = false →
      step s = .next { s with opb := v, host := rest, replies := .done :: s.replies }) ∧
    (s.host = .write (Config.base + 0x20) 8 v :: rest → s.busy = false →
      step s = .next { s with opm := v, host := rest, replies := .done :: s.replies })

/-- R53: an admitted read responds OK with the register's 64 bits, BUSY or not, and changes nothing. -/
def Obligations.AdmittedReads : Prop :=
  ∀ (s : State) (rest : List HostEvent) (off : Nat) (v : Word),
    (off, v) ∈ [(0x00, 0), (0x08, s.status), (0x10, s.opa), (0x18, s.opb), (0x20, s.opm),
      (0x28, s.res), (0x30, s.ke), (0x38, s.kn), (0x40, s.kd)] →
    s.host = .read (Config.base + off) 8 :: rest →
    step s = .next { s with host := rest, replies := .data v :: s.replies }

/-- R55: an access of another size, misaligned, or outside the window responds BusError and changes
nothing. -/
def Obligations.RefusedAccesses : Prop :=
  ∀ (s : State) (rest : List HostEvent) (addr size : Nat) (v : Word),
    (size ≠ 8 ∨ addr % 8 ≠ 0 ∨ addr < Config.base ∨ Config.base + 0x48 ≤ addr) →
    (s.host = .read addr size :: rest →
      step s = .next { s with host := rest, replies := .busError :: s.replies }) ∧
    (s.host = .write addr size v :: rest →
      step s = .next { s with host := rest, replies := .busError :: s.replies })

/-- R218: while BUSY = 1 every host write to the window is dropped, with the response OK. -/
def Obligations.BusyHazard : Prop :=
  ∀ (s : State) (rest : List HostEvent) (off : Nat) (v : Word), s.busy = true →
    off ∈ [0x00, 0x08, 0x10, 0x18, 0x20, 0x28, 0x30, 0x38, 0x40] →
    s.host = .write (Config.base + off) 8 v :: rest →
    step s = .next { s with host := rest, replies := .done :: s.replies }

/-- R79: with BUSY = 0 a WAIT ends with a read of STATUS, and with BUSY = 1 a read that its event asks
for records STATUS and the WAIT goes on. -/
def Obligations.WaitPollsStatus : Prop :=
  ∀ (s : State) (k : Nat) (rest : List HostEvent),
    (s.host = .wait k :: rest → s.busy = false →
      step s = .next { s with host := rest, replies := .data s.status :: s.replies }) ∧
    (s.host = .wait (k + 1) :: rest → s.busy = true →
      step s = .next { s with host := .wait k :: rest, replies := .data s.status :: s.replies })

/-- R79: for every n a WAIT can make n reads that see BUSY = 1, the engine then completes its command,
and one read that sees BUSY = 0 ends it, each read recorded with the STATUS of its moment. -/
def Obligations.WaitMakesAnyNumberOfReads : Prop :=
  ∀ (s t : State) (i : Instr) (n : Nat) (rest : List HostEvent), s.busy = true →
    decode s.cmdreg = .ok i → s.host = .wait n :: rest →
    exec i { s with host := .wait 1 :: rest,
                    replies := List.replicate n (.data s.status) ++ s.replies } = .next t →
    t.busy = false →
    Host.Core.run Sys2Proof.core (n + 2) s =
      .next { t with host := rest,
                     replies := .data t.status :: (List.replicate n (.data s.status) ++ s.replies) }

/-- R30 with the layout of R26: BUSY, KEYVALID and ERR stand in their bits, and the reserved bits of
STATUS read 0 in every state. -/
def Obligations.StatusLayout : Prop :=
  ∀ s : State,
    s.status.extractLsb' 2 6 = 0 ∧ s.status.extractLsb' 16 48 = 0 ∧
    s.status.getLsbD 0 = s.busy ∧ s.status.getLsbD 1 = s.keyValid ∧
    s.status.extractLsb' 8 8 = s.err

/-- The model's own: no step stops with a fault or a refusal (an error is a code, 60 R190). -/
def Obligations.EveryStepAnswers : Prop :=
  ∀ s : State, ∃ t, step s = .next t

/-! ## Reset -/

/-- R210: after reset all nine registers read 0, CMDREG, BUSY, KEYVALID and ERR are 0, and the engine
is idle until the host writes CMD. -/
def Obligations.ResetIsAllZero : Prop :=
  (∀ off ∈ [0x00, 0x08, 0x10, 0x18, 0x20, 0x28, 0x30, 0x38, 0x40],
      ∃ r, regAtOffset off = some r ∧ readReg r State.reset = 0) ∧
    State.reset.cmdreg = 0 ∧ State.reset.busy = false ∧ State.reset.keyValid = false ∧
    State.reset.err = 0 ∧ State.reset.ke = 0 ∧ State.reset.kn = 0 ∧ State.reset.kd = 0 ∧
    engineStep State.reset = .next State.reset

/-- R210, R211, R212, R214 (and log 6 for the number the event carries): reset from any state clears
every register, commits nothing of a running command, and rewinds nothing: exactly the words drawn, as
many as the event says up to what the running command can have drawn, stay consumed. What it can have
drawn is 0, or as many words as leave a running sampler unended before the last of them. -/
def Obligations.AssertedResetClears : Prop :=
  (∀ (s : State) (drawn : Nat) (rest : List HostEvent), s.host = .reset drawn :: rest →
    step s = .next { State.reset with
      rngWords := s.rngWords.drop (min drawn (drawLimit s)),
      rngUsed := s.rngUsed + min drawn (drawLimit s), host := rest, replies := s.replies }) ∧
    (∀ (s : State) (n : Nat), n ≤ drawLimit s ↔ n = 0 ∨ s.MayHaveDrawn n)

/-! ## ISPRIME -/

/-- R100, R102: RES <- 1 if OPA is a prime, 0 for every other 64-bit value, nothing but RES, ERR and
BUSY changed. -/
def Obligations.IsprimeDecidesPrimality : Prop :=
  ∀ s : State, exec .isprime s = .next
    { s with res := if 2 ≤ s.opa.toInt ∧ Nat.Prime s.opa.toInt.toNat then 1 else 0,
             err := 0, busy := false }

/-! ## MODINV -/

/-- R112: for register values, modInv gives the unique inverse in [0, m); 0 for m = 1; and depends on
a only modulo m. -/
def Obligations.ModInvContract : Prop :=
  ∀ a m : Int, 0 ≤ a → a ≤ int64Max → 1 ≤ m → m ≤ int64Max →
    (1 < m → Int.gcd a m = 1 →
      ∃ x, modInv a m = .ok x ∧ 0 ≤ x ∧ x < m ∧ a * x % m = 1 ∧
        ∀ y, 0 ≤ y → y < m → a * y % m = 1 → y = x) ∧
    (m = 1 → modInv a m = .ok 0) ∧
    modInv a m = modInv (a % m) m

/-- R110, R115: MODINV of coprime operands, or with OPM = 1, completes with the inverse in RES and
changes nothing but RES, ERR and BUSY. -/
def Obligations.ModinvCompletes : Prop :=
  ∀ s : State, 0 ≤ s.opa.toInt → 0 < s.opm.toInt → Int.gcd s.opa.toInt s.opm.toInt = 1 →
    ∃ x : Int, 0 ≤ x ∧ x < s.opm.toInt ∧
      (s.opm.toInt = 1 ∨ s.opa.toInt * x % s.opm.toInt = 1) ∧
      exec .modinv s = .next { s with res := BitVec.ofInt 64 x, err := 0, busy := false }

/-- R113: OPM <= 0 or OPA < 0 is E_RANGE, also where OPM = 1; nothing else changes. -/
def Obligations.ModinvRange : Prop :=
  ∀ s : State, s.opm.toInt ≤ 0 ∨ s.opa.toInt < 0 →
    exec .modinv s = .next { s with err := 0x02, busy := false }

/-- R114: operands that are not coprime, OPA = 0 among them, are E_NOINV; RES is unchanged. -/
def Obligations.ModinvNoInverse : Prop :=
  ∀ s : State, 0 ≤ s.opa.toInt → 1 < s.opm.toInt → Int.gcd s.opa.toInt s.opm.toInt ≠ 1 →
    exec .modinv s = .next { s with err := 0x04, busy := false }

/-- R115: no check of the Euclidean loop fires for register values. -/
def Obligations.ModInvNeverOverflows : Prop :=
  ∀ a m : Word, modInv a.toInt m.toInt ≠ .error .overflow

/-! ## MODEXP -/

/-- R126: whatever modExp returns is the mathematical power modulo m, with 0^0 = 1. -/
def Obligations.ModExpContract : Prop :=
  ∀ b e m r : Int, modExp b e m = .ok r → 0 ≤ r ∧ r < m ∧ r = b ^ e.toNat % m

/-- R127, R122: for every modulus up to 3037000500 MODEXP completes with the power in RES, for any
base and exponent >= 0, and changes nothing but RES, ERR and BUSY. -/
def Obligations.ModexpCompletes : Prop :=
  ∀ s : State, 0 ≤ s.opa.toInt → 0 ≤ s.opb.toInt → 0 < s.opm.toInt → s.opm.toInt ≤ 3037000500 →
    exec .modexp s = .next
      { s with res := BitVec.ofInt 64 (s.opa.toInt ^ s.opb.toInt.toNat % s.opm.toInt),
               err := 0, busy := false }

/-- R122, R126, R127, R183: for operands in range MODEXP ends with the power in RES if no product it
forms exceeds INT64_MAX, and with E_OVERFLOW and RES unchanged if one does, which takes a modulus above
3037000500. -/
def Obligations.ModexpPowerOrOverflow : Prop :=
  ∀ s : State, 0 ≤ s.opa.toInt → 0 ≤ s.opb.toInt → 0 < s.opm.toInt →
    (¬ ProductOverflows s.opa.toInt s.opb.toInt.toNat s.opm.toInt →
      exec .modexp s = .next
        { s with res := BitVec.ofInt 64 (s.opa.toInt ^ s.opb.toInt.toNat % s.opm.toInt),
                 err := 0, busy := false }) ∧
    (ProductOverflows s.opa.toInt s.opb.toInt.toNat s.opm.toInt →
      3037000500 < s.opm.toInt ∧ exec .modexp s = .next { s with err := 0x03, busy := false })

/-- The examples of R127, on both sides of the boundary. -/
def Obligations.ModexpOverflowBoundary : Prop :=
  modExp 3037000500 2 3037000501 = .error .overflow ∧ modExp 3037000499 2 3037000500 = .ok 1 ∧
    modExp (2 ^ 40) 1 (2 ^ 62) = .ok (2 ^ 40) ∧ modExp (2 ^ 40) 2 (2 ^ 62) = .error .overflow ∧
    modExp 2 62 int64Max = .ok 4611686018427387904 ∧ modExp 2 63 int64Max = .error .overflow ∧
    modExp int64Max 1 int64Max = .ok 0

/-- R124: a negative exponent or base or a modulus <= 0 is E_RANGE, before anything else. -/
def Obligations.ModexpRange : Prop :=
  ∀ s : State, s.opb.toInt < 0 ∨ s.opm.toInt ≤ 0 ∨ s.opa.toInt < 0 →
    exec .modexp s = .next { s with err := 0x02, busy := false }

/-- R125: modulus 1 gives 0 for every exponent, exponent 0 gives 1 for every modulus above 1. -/
def Obligations.ModexpModulusOneExponentZero : Prop :=
  (∀ b e : Int, 0 ≤ b → 0 ≤ e → modExp b e 1 = .ok 0) ∧
    (∀ b m : Int, 0 ≤ b → 1 < m → modExp b 0 m = .ok 1)

/-- R129: a base at or above the modulus is reduced, never refused. -/
def Obligations.ModexpReducesBase : Prop :=
  ∀ b e m : Int, 0 ≤ b → 1 < m → modExp b e m = modExp (b % m) e m

/-! ## PRIMEGEN -/

/-- R90, R91, R92, R96: PRIMEGEN passes over the words that give no prime, takes the first that does,
and consumes exactly the words up to it; it changes nothing but RES, ERR, BUSY and the words. -/
def Obligations.PrimegenTakesFirstPrime : Prop :=
  ∀ (s : State) (pre rest : List Word) (w : Word) (p : Nat),
    s.rngWords = pre ++ w :: rest → (∀ x ∈ pre, PassedOver x) → GivesPrime w p →
    exec .primegen s = .next
      { s with res := BitVec.ofNat 64 p, err := 0, busy := false,
               rngWords := rest, rngUsed := s.rngUsed + (pre.length + 1) }

/-- R95: while no word gives a prime, PRIMEGEN does not complete: BUSY and every register stand, and
only the source may deliver its next word (log 3). -/
def Obligations.PrimegenHangsWithoutPrime : Prop :=
  ∀ s : State, (∀ x ∈ s.rngWords, PassedOver x) →
    ∃ more : List Word, more.length ≤ 1 ∧
      exec .primegen s = .next { s with rngWords := s.rngWords ++ more }

/-- The postcondition of R90, for every admitted choice of the parameters: a prime of the range, at
least one word consumed, none read twice or skipped. -/
def Obligations.SampledPrimeInRange : Prop :=
  ∀ (P : Params) (ws rest : List Word) (p : Int), P.wellFormed = true →
    samplePrime P ws = some (p, rest) →
    P.primeLo ≤ p ∧ p < P.primeHi ∧ Nat.Prime p.toNat ∧ ∃ used, used ≠ [] ∧ ws = used ++ rest

/-! ## KEYGEN -/

/-- R135, R137, R138, R141: with no key, KEYGEN takes the first two primes the words give, and if they
differ writes KE = 65537, KN = p*q and KD = the inverse of 65537 modulo (p-1)(q-1) together. -/
def Obligations.KeygenBuildsKey : Prop :=
  ∀ (s : State) (pre₁ pre₂ rest : List Word) (w₁ w₂ : Word) (p q : Nat), s.keyValid = false →
    s.rngWords = pre₁ ++ w₁ :: (pre₂ ++ w₂ :: rest) →
    (∀ x ∈ pre₁, PassedOver x) → GivesPrime w₁ p → (∀ x ∈ pre₂, PassedOver x) → GivesPrime w₂ q →
    p ≠ q →
    ∃ d : Int, 0 ≤ d ∧ d < ((p : Int) - 1) * (q - 1) ∧
      65537 * d % (((p : Int) - 1) * (q - 1)) = 1 ∧
      exec .keygen s = .next
        { s with ke := 65537, kn := BitVec.ofNat 64 (p * q), kd := BitVec.ofInt 64 d,
                 keyValid := true, err := 0, busy := false, rngWords := rest,
                 rngUsed := s.rngUsed + (pre₁.length + pre₂.length + 2) }

/-- R140 (a), R139: equal primes are E_KEYGEN; no key register changes, the words stay consumed. -/
def Obligations.KeygenRejectsEqualPrimes : Prop :=
  ∀ (s : State) (pre₁ pre₂ rest : List Word) (w₁ w₂ : Word) (p : Nat), s.keyValid = false →
    s.rngWords = pre₁ ++ w₁ :: (pre₂ ++ w₂ :: rest) →
    (∀ x ∈ pre₁, PassedOver x) → GivesPrime w₁ p → (∀ x ∈ pre₂, PassedOver x) → GivesPrime w₂ p →
    exec .keygen s = .next
      { s with err := 0x05, busy := false, rngWords := rest,
               rngUsed := s.rngUsed + (pre₁.length + pre₂.length + 2) }

/-- R136, R187: with a key valid KEYGEN is E_KEYLOCKED; no word is consumed, no key register changes. -/
def Obligations.KeygenLocked : Prop :=
  ∀ s : State, s.keyValid = true →
    exec .keygen s = .next { s with err := 0x07, busy := false }

/-- R135, R95: with no key, KEYGEN does not complete while the words give no prime, or one only. -/
def Obligations.KeygenHangsWithoutTwoPrimes : Prop :=
  ∀ s : State, s.keyValid = false →
    (∀ x ∈ s.rngWords, PassedOver x) ∨
      (∃ pre w p rest, s.rngWords = pre ++ w :: rest ∧ (∀ x ∈ pre, PassedOver x) ∧
        GivesPrime w p ∧ ∀ x ∈ rest, PassedOver x) →
    ∃ more : List Word, more.length ≤ 1 ∧
      exec .keygen s = .next { s with rngWords := s.rngWords ++ more }

/-- R142 for every admitted choice of the parameters: a KEYGEN that succeeds leaves a key. -/
def Obligations.KeygenSuccessIsAKey : Prop :=
  ∀ (P : Params) (s : State), P.wellFormed = true → s.keyValid = false →
    (keygenWith P s).keyValid = true →
    IsKey P (keygenWith P s).ke.toInt (keygenWith P s).kn.toInt (keygenWith P s).kd.toInt

/-- R140, R192 for every admitted choice of the parameters, in the order of the tests: p = q is KeyGen,
then a product that does not fit is Overflow, then gcd(E_PUB, phi) other than 1 is KeyGen. -/
def Obligations.KeyConstructionFailures : Prop :=
  ∀ (P : Params) (p q : Int), P.wellFormed = true → 2 ≤ p → 2 ≤ q →
    (p = q → keyFrom P p q = .error .keyGen) ∧
    (p ≠ q → int64Max < p * q → keyFrom P p q = .error .overflow) ∧
    (p ≠ q → p * q ≤ int64Max → Int.gcd P.ePub ((p - 1) * (q - 1)) ≠ 1 →
      keyFrom P p q = .error .keyGen)

/-! ## ENC and DEC -/

/-- R150: with a valid key, ENC of a value in [0, KN) completes with its KE-th power modulo KN in RES
and changes nothing but RES, ERR and BUSY. -/
def Obligations.EncCompletes : Prop :=
  ∀ s : State, s.KeyInv → s.keyValid = true → 0 ≤ s.opa.toInt → s.opa.toInt < s.kn.toInt →
    exec .enc s = .next
      { s with res := BitVec.ofInt 64 (s.opa.toInt ^ s.ke.toInt.toNat % s.kn.toInt),
               err := 0, busy := false }

/-- R152: with a valid key, DEC of a value in [0, KN) completes with its KD-th power modulo KN in RES
and changes nothing but RES, ERR and BUSY. -/
def Obligations.DecCompletes : Prop :=
  ∀ s : State, s.KeyInv → s.keyValid = true → 0 ≤ s.opa.toInt → s.opa.toInt < s.kn.toInt →
    exec .dec s = .next
      { s with res := BitVec.ofInt 64 (s.opa.toInt ^ s.kd.toInt.toNat % s.kn.toInt),
               err := 0, busy := false }

/-- R151, R186: without a key ENC and DEC are E_NOKEY whatever OPA is; RES is unchanged. -/
def Obligations.EncDecNeedAKey : Prop :=
  ∀ s : State, s.keyValid = false →
    exec .enc s = .next { s with err := 0x06, busy := false } ∧
    exec .dec s = .next { s with err := 0x06, busy := false }

/-- R153, R188: with a key, ENC and DEC of a value outside [0, KN) are E_DOMAIN; RES is unchanged. -/
def Obligations.EncDecDomain : Prop :=
  ∀ s : State, s.keyValid = true → s.opa.toInt < 0 ∨ s.kn.toInt ≤ s.opa.toInt →
    exec .enc s = .next { s with err := 0x08, busy := false } ∧
    exec .dec s = .next { s with err := 0x08, busy := false }

/-- R154, R142: with a valid key, for every v in [0, KN), ENC then DEC of its result gives v back, and
DEC then ENC gives v back, every command succeeding and every value between in [0, KN). -/
def Obligations.EncryptionRoundTrip : Prop :=
  ∀ s : State, s.KeyInv → s.keyValid = true → 0 ≤ s.opa.toInt → s.opa.toInt < s.kn.toInt →
    (∃ t u, exec .enc s = .next t ∧ t.err = 0 ∧ 0 ≤ t.res.toInt ∧ t.res.toInt < s.kn.toInt ∧
      exec .dec { t with opa := t.res } = .next u ∧ u.err = 0 ∧ u.res = s.opa) ∧
    (∃ t u, exec .dec s = .next t ∧ t.err = 0 ∧ 0 ≤ t.res.toInt ∧ t.res.toInt < s.kn.toInt ∧
      exec .enc { t with opa := t.res } = .next u ∧ u.err = 0 ∧ u.res = s.opa)

/-- R155: with a valid key, 0, 1 and KN - 1 are fixed by ENC and by DEC. -/
def Obligations.CryptFixedValues : Prop :=
  ∀ s : State, s.KeyInv → s.keyValid = true →
    s.opa.toInt = 0 ∨ s.opa.toInt = 1 ∨ s.opa.toInt = s.kn.toInt - 1 →
    exec .enc s = .next { s with res := s.opa, err := 0, busy := false } ∧
    exec .dec s = .next { s with res := s.opa, err := 0, busy := false }

/-- R156, R130: inside the domain ENC and DEC leave the RES and the ERR that MODEXP leaves with KE or
KD in OPB and KN in OPM. -/
def Obligations.OnePrimitiveTwoUses : Prop :=
  ∀ s t u : State, s.keyValid = true → 0 ≤ s.opa.toInt → s.opa.toInt < s.kn.toInt →
    (exec .enc s = .next t → exec .modexp { s with opb := s.ke, opm := s.kn } = .next u →
      t.res = u.res ∧ t.err = u.err) ∧
    (exec .dec s = .next t → exec .modexp { s with opb := s.kd, opm := s.kn } = .next u →
      t.res = u.res ∧ t.err = u.err)

/-! ## Frames -/

/-- R21, R22, R23, R35: no command writes OPA, OPB, OPM or CMDREG, nor touches the host's side. -/
def Obligations.CommandsLeaveOperands : Prop :=
  ∀ (i : Instr) (s t : State), exec i s = .next t →
    t.opa = s.opa ∧ t.opb = s.opb ∧ t.opm = s.opm ∧ t.cmdreg = s.cmdreg ∧
    t.host = s.host ∧ t.replies = s.replies

/-- R35, R24: only KEYGEN writes KE, KN, KD and KEYVALID, and KEYGEN never writes RES. -/
def Obligations.OnlyKeygenWritesTheKey : Prop :=
  ∀ (i : Instr) (s t : State), exec i s = .next t →
    (i ≠ .keygen → t.ke = s.ke ∧ t.kn = s.kn ∧ t.kd = s.kd ∧ t.keyValid = s.keyValid) ∧
    (i = .keygen → t.res = s.res)

/-- R15, R35: only PRIMEGEN and KEYGEN draw random words; every other command completes in one step. -/
def Obligations.OnlySamplersDrawWords : Prop :=
  ∀ (i : Instr) (s : State), i ≠ .primegen → i ≠ .keygen →
    ∃ t, exec i s = .next t ∧ t.busy = false ∧ t.rngWords = s.rngWords ∧ t.rngUsed = s.rngUsed

/-- R190: a running command that ends with an error changes ERR and BUSY and nothing else; the random
words it consumed stay consumed. -/
def Obligations.ErrorsChangeOnlyErrAndBusy : Prop :=
  ∀ (i : Instr) (s t : State), s.busy = true → exec i s = .next t → t.busy = false → t.err ≠ 0 →
    ∃ k, k ≤ s.rngWords.length ∧
      t = { s with err := t.err, busy := false, rngWords := s.rngWords.drop k,
                   rngUsed := s.rngUsed + k }

/-! ## Invariants -/

/-- R34, R180: every step from a state with the invariant leads to one: the key registers are three
zeros or one key with two distinct primes behind it, and ERR is one of the nine codes. -/
def Obligations.StepKeepsInv : Prop :=
  ∀ s t : State, s.Inv → step s = .next t → t.Inv

/-- R41, R34: the state after reset has the invariant. -/
def Obligations.ResetHasInv : Prop := State.reset.Inv

/-- R34, R28: once a key is valid, no command and no host access changes it; only reset does. -/
def Obligations.KeyIsImmutable : Prop :=
  ∀ s t : State, s.keyValid = true → (∀ drawn rest, s.host ≠ .reset drawn :: rest) →
    step s = .next t → t.keyValid = true ∧ t.ke = s.ke ∧ t.kn = s.kn ∧ t.kd = s.kd

/-! ## The host procedures -/

/-- R217 (and log 3, log 13): from an idle engine without a key, the host's construction loop passes
over the words of attempts that gave one prime twice, and then either has the key of the next two
distinct primes, or stands at a KEYGEN that waits, the words left before the last delivery giving fewer
than two primes. It ends in nothing else. -/
def Obligations.ConstructionGivesAKeyOrWaits : Prop :=
  ∀ s : State, s.busy = false → s.keyValid = false →
    ∃ failed ws, s.rngWords = failed ++ ws ∧ FailedAttempts failed ∧
      ((∃ (last rest : List Word) (p q : Nat) (d : Int), ws = last ++ rest ∧ GivesPair last p q ∧
          p ≠ q ∧ IsKey Config.params 65537 (p * q) d ∧
          constructKey s =
            { s with cmdreg := encode .keygen, busy := false, err := 0, keyValid := true,
                     ke := 65537, kn := BitVec.ofNat 64 (p * q), kd := BitVec.ofInt 64 d,
                     rngWords := rest, rngUsed := s.rngUsed + (failed.length + last.length) }) ∨
        (FewerThanTwoPrimes ws ∧ ∃ more : List Word, more.length ≤ 1 ∧
          constructKey s =
            { s with cmdreg := encode .keygen, busy := true,
                     err := if failed = [] then s.err else 0x05,
                     rngWords := ws ++ more, rngUsed := s.rngUsed + failed.length }))

/-- R163: parsing a decimal numeral gives back the number it was made from. -/
def Obligations.DecimalRoundTrip : Prop :=
  ∀ n : Nat, (n : Int) ≤ int64Max → parseDecimal (decimal n) = some n

/-- R167: a token of the low w bits has value v mod 2^w, and a token is recovered from its value and
width. -/
def Obligations.BinaryTokenConversions : Prop :=
  (∀ v w : Nat, 1 ≤ w → w ≤ 63 →
      (fixedBin v w).length = w ∧ binToInt (fixedBin v w) = some ((v % 2 ^ w : Nat) : Int)) ∧
    (∀ (t : Text) (v : Int), binToInt t = some v →
      0 ≤ v ∧ v < 2 ^ t.length ∧ fixedBin v.toNat t.length = t)

/-- R166: with a valid key and the engine idle, decryptText of encryptText gives back every byte
string, whitespace and the empty string included. -/
def Obligations.TextRoundTrip : Prop :=
  ∀ (s : State) (text : Text), s.KeyInv → s.keyValid = true → s.busy = false →
    ∃ t u out, encryptText text s = (t, .ok out) ∧ decryptText out t = (u, .ok text)

/-- R171: with a valid key and the engine idle, tokens below KN whose ciphertext fits their width come
back from the bit-string codec, joined by single spaces. -/
def Obligations.BinaryTokensRoundTrip : Prop :=
  ∀ (s : State) (text : Text), s.KeyInv → s.keyValid = true → s.busy = false →
    (∀ tok ∈ tokens text, ∃ v, binToInt tok = some v ∧ v < s.kn.toInt ∧
      v ^ s.ke.toInt.toNat % s.kn.toInt < 2 ^ tok.length) →
    ∃ t u out, encryptBinaryTokens text s = (t, .ok out) ∧
      decryptBinaryTokens out t = (u, .ok (join (tokens text)))

/-- R171, the last sentence: with a valid key and the engine idle, tokens below KN whose width w
satisfies 2^w >= KN never truncate: each token emitted has its own token's width, and its value is the
whole KE-th power modulo KN on encode, the whole KD-th power on decode; and what was encoded decodes to
the tokens. -/
def Obligations.WideTokensNeverTruncate : Prop :=
  ∀ (s : State) (text : Text), s.KeyInv → s.keyValid = true → s.busy = false →
    (∀ tok ∈ tokens text, ∃ v, binToInt tok = some v ∧ v < s.kn.toInt ∧
      s.kn.toInt ≤ 2 ^ tok.length) →
    (∃ t u out, encryptBinaryTokens text s = (t, .ok out) ∧
      (tokens out).map List.length = (tokens text).map List.length ∧
      (tokens out).map binToInt = (tokens text).map (fun tok =>
        some (tokenValue tok ^ s.ke.toInt.toNat % s.kn.toInt)) ∧
      decryptBinaryTokens out t = (u, .ok (join (tokens text)))) ∧
    (∃ t out, decryptBinaryTokens text s = (t, .ok out) ∧
      (tokens out).map List.length = (tokens text).map List.length ∧
      (tokens out).map binToInt = (tokens text).map (fun tok =>
        some (tokenValue tok ^ s.kd.toInt.toNat % s.kn.toInt)))

/-- R168, R169, R171, truncation included: with a valid key and the engine idle, tokens below KN are
encrypted to the low w bits of their ciphertext in their own width w, with no error; what those tokens
decrypt to is the low w bits of the power of the value they now have, again with no error. The first
token at or above KN fails the procedure with OutOfDomainError. -/
def Obligations.BinaryTokensTruncateSilently : Prop :=
  ∀ (s : State) (text : Text), s.KeyInv → s.keyValid = true → s.busy = false →
    ((∀ tok ∈ tokens text, ∃ v, binToInt tok = some v ∧ v < s.kn.toInt) →
      ∃ t u out, encryptBinaryTokens text s = (t, .ok out) ∧
        out = join ((tokens text).map (fun tok =>
          fixedBin (tokenValue tok ^ s.ke.toInt.toNat % s.kn.toInt).toNat tok.length)) ∧
        decryptBinaryTokens out t = (u, .ok (join ((tokens text).map (fun tok =>
          fixedBin ((tokenValue tok ^ s.ke.toInt.toNat % s.kn.toInt % 2 ^ tok.length) ^
            s.kd.toInt.toNat % s.kn.toInt).toNat tok.length))))) ∧
    (∀ (pre post : List Text) (tok : Text) (v : Int), tokens text = pre ++ tok :: post →
      (∀ x ∈ pre, ∃ y, binToInt x = some y ∧ y < s.kn.toInt) → binToInt tok = some v →
      s.kn.toInt ≤ v →
      (encryptBinaryTokens text s).2 = .error .outOfDomain ∧
      (decryptBinaryTokens text s).2 = .error .outOfDomain)
end

