-- ==== Sys2Proof/Laws/State.lean ====
section
/-! SUPPORT. One lemma per field per update of the state, so that no later proof unfolds a record
update. -/

namespace Sys2Proof.Machine

@[simp] theorem finish_cmdreg (c : BitVec 8) (s : State) : (finish c s).cmdreg = s.cmdreg := rfl
@[simp] theorem finish_busy (c : BitVec 8) (s : State) : (finish c s).busy = false := rfl
@[simp] theorem finish_keyValid (c : BitVec 8) (s : State) : (finish c s).keyValid = s.keyValid := rfl
@[simp] theorem finish_err (c : BitVec 8) (s : State) : (finish c s).err = c := rfl
@[simp] theorem finish_opa (c : BitVec 8) (s : State) : (finish c s).opa = s.opa := rfl
@[simp] theorem finish_opb (c : BitVec 8) (s : State) : (finish c s).opb = s.opb := rfl
@[simp] theorem finish_opm (c : BitVec 8) (s : State) : (finish c s).opm = s.opm := rfl
@[simp] theorem finish_res (c : BitVec 8) (s : State) : (finish c s).res = s.res := rfl
@[simp] theorem finish_ke (c : BitVec 8) (s : State) : (finish c s).ke = s.ke := rfl
@[simp] theorem finish_kn (c : BitVec 8) (s : State) : (finish c s).kn = s.kn := rfl
@[simp] theorem finish_kd (c : BitVec 8) (s : State) : (finish c s).kd = s.kd := rfl
@[simp] theorem finish_rngWords (c : BitVec 8) (s : State) : (finish c s).rngWords = s.rngWords := rfl
@[simp] theorem finish_rngUsed (c : BitVec 8) (s : State) : (finish c s).rngUsed = s.rngUsed := rfl
@[simp] theorem finish_host (c : BitVec 8) (s : State) : (finish c s).host = s.host := rfl
@[simp] theorem finish_replies (c : BitVec 8) (s : State) : (finish c s).replies = s.replies := rfl

@[simp] theorem succeed_cmdreg (s : State) : (succeed s).cmdreg = s.cmdreg := rfl
@[simp] theorem succeed_busy (s : State) : (succeed s).busy = false := rfl
@[simp] theorem succeed_keyValid (s : State) : (succeed s).keyValid = s.keyValid := rfl
@[simp] theorem succeed_err (s : State) : (succeed s).err = errNone := rfl
@[simp] theorem succeed_opa (s : State) : (succeed s).opa = s.opa := rfl
@[simp] theorem succeed_opb (s : State) : (succeed s).opb = s.opb := rfl
@[simp] theorem succeed_opm (s : State) : (succeed s).opm = s.opm := rfl
@[simp] theorem succeed_res (s : State) : (succeed s).res = s.res := rfl
@[simp] theorem succeed_ke (s : State) : (succeed s).ke = s.ke := rfl
@[simp] theorem succeed_kn (s : State) : (succeed s).kn = s.kn := rfl
@[simp] theorem succeed_kd (s : State) : (succeed s).kd = s.kd := rfl
@[simp] theorem succeed_rngWords (s : State) : (succeed s).rngWords = s.rngWords := rfl
@[simp] theorem succeed_rngUsed (s : State) : (succeed s).rngUsed = s.rngUsed := rfl
@[simp] theorem succeed_host (s : State) : (succeed s).host = s.host := rfl
@[simp] theorem succeed_replies (s : State) : (succeed s).replies = s.replies := rfl

@[simp] theorem raise_cmdreg (x : Exc) (s : State) : (raise x s).cmdreg = s.cmdreg := rfl
@[simp] theorem raise_busy (x : Exc) (s : State) : (raise x s).busy = false := rfl
@[simp] theorem raise_keyValid (x : Exc) (s : State) : (raise x s).keyValid = s.keyValid := rfl
@[simp] theorem raise_err (x : Exc) (s : State) : (raise x s).err = x.code := rfl
@[simp] theorem raise_opa (x : Exc) (s : State) : (raise x s).opa = s.opa := rfl
@[simp] theorem raise_opb (x : Exc) (s : State) : (raise x s).opb = s.opb := rfl
@[simp] theorem raise_opm (x : Exc) (s : State) : (raise x s).opm = s.opm := rfl
@[simp] theorem raise_res (x : Exc) (s : State) : (raise x s).res = s.res := rfl
@[simp] theorem raise_ke (x : Exc) (s : State) : (raise x s).ke = s.ke := rfl
@[simp] theorem raise_kn (x : Exc) (s : State) : (raise x s).kn = s.kn := rfl
@[simp] theorem raise_kd (x : Exc) (s : State) : (raise x s).kd = s.kd := rfl
@[simp] theorem raise_rngWords (x : Exc) (s : State) : (raise x s).rngWords = s.rngWords := rfl
@[simp] theorem raise_rngUsed (x : Exc) (s : State) : (raise x s).rngUsed = s.rngUsed := rfl
@[simp] theorem raise_host (x : Exc) (s : State) : (raise x s).host = s.host := rfl
@[simp] theorem raise_replies (x : Exc) (s : State) : (raise x s).replies = s.replies := rfl

@[simp] theorem writeRes_cmdreg (v : Int) (s : State) : (writeRes v s).cmdreg = s.cmdreg := rfl
@[simp] theorem writeRes_busy (v : Int) (s : State) : (writeRes v s).busy = s.busy := rfl
@[simp] theorem writeRes_keyValid (v : Int) (s : State) : (writeRes v s).keyValid = s.keyValid := rfl
@[simp] theorem writeRes_err (v : Int) (s : State) : (writeRes v s).err = s.err := rfl
@[simp] theorem writeRes_opa (v : Int) (s : State) : (writeRes v s).opa = s.opa := rfl
@[simp] theorem writeRes_opb (v : Int) (s : State) : (writeRes v s).opb = s.opb := rfl
@[simp] theorem writeRes_opm (v : Int) (s : State) : (writeRes v s).opm = s.opm := rfl
@[simp] theorem writeRes_res (v : Int) (s : State) : (writeRes v s).res = BitVec.ofInt 64 v := rfl
@[simp] theorem writeRes_ke (v : Int) (s : State) : (writeRes v s).ke = s.ke := rfl
@[simp] theorem writeRes_kn (v : Int) (s : State) : (writeRes v s).kn = s.kn := rfl
@[simp] theorem writeRes_kd (v : Int) (s : State) : (writeRes v s).kd = s.kd := rfl
@[simp] theorem writeRes_rngWords (v : Int) (s : State) : (writeRes v s).rngWords = s.rngWords := rfl
@[simp] theorem writeRes_rngUsed (v : Int) (s : State) : (writeRes v s).rngUsed = s.rngUsed := rfl
@[simp] theorem writeRes_host (v : Int) (s : State) : (writeRes v s).host = s.host := rfl
@[simp] theorem writeRes_replies (v : Int) (s : State) : (writeRes v s).replies = s.replies := rfl

@[simp] theorem writeKey_cmdreg (k : Key) (s : State) : (writeKey k s).cmdreg = s.cmdreg := rfl
@[simp] theorem writeKey_busy (k : Key) (s : State) : (writeKey k s).busy = s.busy := rfl
@[simp] theorem writeKey_keyValid (k : Key) (s : State) : (writeKey k s).keyValid = true := rfl
@[simp] theorem writeKey_err (k : Key) (s : State) : (writeKey k s).err = s.err := rfl
@[simp] theorem writeKey_opa (k : Key) (s : State) : (writeKey k s).opa = s.opa := rfl
@[simp] theorem writeKey_opb (k : Key) (s : State) : (writeKey k s).opb = s.opb := rfl
@[simp] theorem writeKey_opm (k : Key) (s : State) : (writeKey k s).opm = s.opm := rfl
@[simp] theorem writeKey_res (k : Key) (s : State) : (writeKey k s).res = s.res := rfl
@[simp] theorem writeKey_ke (k : Key) (s : State) : (writeKey k s).ke = BitVec.ofInt 64 k.e := rfl
@[simp] theorem writeKey_kn (k : Key) (s : State) : (writeKey k s).kn = BitVec.ofInt 64 k.n := rfl
@[simp] theorem writeKey_kd (k : Key) (s : State) : (writeKey k s).kd = BitVec.ofInt 64 k.d := rfl
@[simp] theorem writeKey_rngWords (k : Key) (s : State) : (writeKey k s).rngWords = s.rngWords := rfl
@[simp] theorem writeKey_rngUsed (k : Key) (s : State) : (writeKey k s).rngUsed = s.rngUsed := rfl
@[simp] theorem writeKey_host (k : Key) (s : State) : (writeKey k s).host = s.host := rfl
@[simp] theorem writeKey_replies (k : Key) (s : State) : (writeKey k s).replies = s.replies := rfl

@[simp] theorem consume_cmdreg (r : List Word) (s : State) : (consume r s).cmdreg = s.cmdreg := rfl
@[simp] theorem consume_busy (r : List Word) (s : State) : (consume r s).busy = s.busy := rfl
@[simp] theorem consume_keyValid (r : List Word) (s : State) : (consume r s).keyValid = s.keyValid := rfl
@[simp] theorem consume_err (r : List Word) (s : State) : (consume r s).err = s.err := rfl
@[simp] theorem consume_opa (r : List Word) (s : State) : (consume r s).opa = s.opa := rfl
@[simp] theorem consume_opb (r : List Word) (s : State) : (consume r s).opb = s.opb := rfl
@[simp] theorem consume_opm (r : List Word) (s : State) : (consume r s).opm = s.opm := rfl
@[simp] theorem consume_res (r : List Word) (s : State) : (consume r s).res = s.res := rfl
@[simp] theorem consume_ke (r : List Word) (s : State) : (consume r s).ke = s.ke := rfl
@[simp] theorem consume_kn (r : List Word) (s : State) : (consume r s).kn = s.kn := rfl
@[simp] theorem consume_kd (r : List Word) (s : State) : (consume r s).kd = s.kd := rfl
@[simp] theorem consume_rngWords (r : List Word) (s : State) : (consume r s).rngWords = r := rfl
@[simp] theorem consume_rngUsed (r : List Word) (s : State) : (consume r s).rngUsed = s.rngUsed + (s.rngWords.length - r.length) := rfl
@[simp] theorem consume_host (r : List Word) (s : State) : (consume r s).host = s.host := rfl
@[simp] theorem consume_replies (r : List Word) (s : State) : (consume r s).replies = s.replies := rfl

@[simp] theorem awaitWord_cmdreg (s : State) : (awaitWord s).cmdreg = s.cmdreg := rfl
@[simp] theorem awaitWord_busy (s : State) : (awaitWord s).busy = s.busy := rfl
@[simp] theorem awaitWord_keyValid (s : State) : (awaitWord s).keyValid = s.keyValid := rfl
@[simp] theorem awaitWord_err (s : State) : (awaitWord s).err = s.err := rfl
@[simp] theorem awaitWord_opa (s : State) : (awaitWord s).opa = s.opa := rfl
@[simp] theorem awaitWord_opb (s : State) : (awaitWord s).opb = s.opb := rfl
@[simp] theorem awaitWord_opm (s : State) : (awaitWord s).opm = s.opm := rfl
@[simp] theorem awaitWord_res (s : State) : (awaitWord s).res = s.res := rfl
@[simp] theorem awaitWord_ke (s : State) : (awaitWord s).ke = s.ke := rfl
@[simp] theorem awaitWord_kn (s : State) : (awaitWord s).kn = s.kn := rfl
@[simp] theorem awaitWord_kd (s : State) : (awaitWord s).kd = s.kd := rfl
@[simp] theorem awaitWord_rngWords (s : State) : (awaitWord s).rngWords = s.rngWords ++ (Config.rngStream (s.rngUsed + s.rngWords.length)).toList := rfl
@[simp] theorem awaitWord_rngUsed (s : State) : (awaitWord s).rngUsed = s.rngUsed := rfl
@[simp] theorem awaitWord_host (s : State) : (awaitWord s).host = s.host := rfl
@[simp] theorem awaitWord_replies (s : State) : (awaitWord s).replies = s.replies := rfl

@[simp] theorem reply_cmdreg (r : Reply) (s : State) : (reply r s).cmdreg = s.cmdreg := rfl
@[simp] theorem reply_busy (r : Reply) (s : State) : (reply r s).busy = s.busy := rfl
@[simp] theorem reply_keyValid (r : Reply) (s : State) : (reply r s).keyValid = s.keyValid := rfl
@[simp] theorem reply_err (r : Reply) (s : State) : (reply r s).err = s.err := rfl
@[simp] theorem reply_opa (r : Reply) (s : State) : (reply r s).opa = s.opa := rfl
@[simp] theorem reply_opb (r : Reply) (s : State) : (reply r s).opb = s.opb := rfl
@[simp] theorem reply_opm (r : Reply) (s : State) : (reply r s).opm = s.opm := rfl
@[simp] theorem reply_res (r : Reply) (s : State) : (reply r s).res = s.res := rfl
@[simp] theorem reply_ke (r : Reply) (s : State) : (reply r s).ke = s.ke := rfl
@[simp] theorem reply_kn (r : Reply) (s : State) : (reply r s).kn = s.kn := rfl
@[simp] theorem reply_kd (r : Reply) (s : State) : (reply r s).kd = s.kd := rfl
@[simp] theorem reply_rngWords (r : Reply) (s : State) : (reply r s).rngWords = s.rngWords := rfl
@[simp] theorem reply_rngUsed (r : Reply) (s : State) : (reply r s).rngUsed = s.rngUsed := rfl
@[simp] theorem reply_host (r : Reply) (s : State) : (reply r s).host = s.host := rfl
@[simp] theorem reply_replies (r : Reply) (s : State) : (reply r s).replies = r :: s.replies := rfl

@[simp] theorem setHost_cmdreg (h : List HostEvent) (s : State) : (setHost h s).cmdreg = s.cmdreg := rfl
@[simp] theorem setHost_busy (h : List HostEvent) (s : State) : (setHost h s).busy = s.busy := rfl
@[simp] theorem setHost_keyValid (h : List HostEvent) (s : State) : (setHost h s).keyValid = s.keyValid := rfl
@[simp] theorem setHost_err (h : List HostEvent) (s : State) : (setHost h s).err = s.err := rfl
@[simp] theorem setHost_opa (h : List HostEvent) (s : State) : (setHost h s).opa = s.opa := rfl
@[simp] theorem setHost_opb (h : List HostEvent) (s : State) : (setHost h s).opb = s.opb := rfl
@[simp] theorem setHost_opm (h : List HostEvent) (s : State) : (setHost h s).opm = s.opm := rfl
@[simp] theorem setHost_res (h : List HostEvent) (s : State) : (setHost h s).res = s.res := rfl
@[simp] theorem setHost_ke (h : List HostEvent) (s : State) : (setHost h s).ke = s.ke := rfl
@[simp] theorem setHost_kn (h : List HostEvent) (s : State) : (setHost h s).kn = s.kn := rfl
@[simp] theorem setHost_kd (h : List HostEvent) (s : State) : (setHost h s).kd = s.kd := rfl
@[simp] theorem setHost_rngWords (h : List HostEvent) (s : State) : (setHost h s).rngWords = s.rngWords := rfl
@[simp] theorem setHost_rngUsed (h : List HostEvent) (s : State) : (setHost h s).rngUsed = s.rngUsed := rfl
@[simp] theorem setHost_host (h : List HostEvent) (s : State) : (setHost h s).host = h := rfl
@[simp] theorem setHost_replies (h : List HostEvent) (s : State) : (setHost h s).replies = s.replies := rfl

@[simp] theorem accept_cmdreg (w : Word) (s : State) : (accept w s).cmdreg = w := rfl
@[simp] theorem accept_busy (w : Word) (s : State) : (accept w s).busy = true := rfl
@[simp] theorem accept_keyValid (w : Word) (s : State) : (accept w s).keyValid = s.keyValid := rfl
@[simp] theorem accept_err (w : Word) (s : State) : (accept w s).err = s.err := rfl
@[simp] theorem accept_opa (w : Word) (s : State) : (accept w s).opa = s.opa := rfl
@[simp] theorem accept_opb (w : Word) (s : State) : (accept w s).opb = s.opb := rfl
@[simp] theorem accept_opm (w : Word) (s : State) : (accept w s).opm = s.opm := rfl
@[simp] theorem accept_res (w : Word) (s : State) : (accept w s).res = s.res := rfl
@[simp] theorem accept_ke (w : Word) (s : State) : (accept w s).ke = s.ke := rfl
@[simp] theorem accept_kn (w : Word) (s : State) : (accept w s).kn = s.kn := rfl
@[simp] theorem accept_kd (w : Word) (s : State) : (accept w s).kd = s.kd := rfl
@[simp] theorem accept_rngWords (w : Word) (s : State) : (accept w s).rngWords = s.rngWords := rfl
@[simp] theorem accept_rngUsed (w : Word) (s : State) : (accept w s).rngUsed = s.rngUsed := rfl
@[simp] theorem accept_host (w : Word) (s : State) : (accept w s).host = s.host := rfl
@[simp] theorem accept_replies (w : Word) (s : State) : (accept w s).replies = s.replies := rfl

@[simp] theorem clearRegs_cmdreg (s : State) : (clearRegs s).cmdreg = 0 := rfl
@[simp] theorem clearRegs_busy (s : State) : (clearRegs s).busy = false := rfl
@[simp] theorem clearRegs_keyValid (s : State) : (clearRegs s).keyValid = false := rfl
@[simp] theorem clearRegs_err (s : State) : (clearRegs s).err = 0 := rfl
@[simp] theorem clearRegs_opa (s : State) : (clearRegs s).opa = 0 := rfl
@[simp] theorem clearRegs_opb (s : State) : (clearRegs s).opb = 0 := rfl
@[simp] theorem clearRegs_opm (s : State) : (clearRegs s).opm = 0 := rfl
@[simp] theorem clearRegs_res (s : State) : (clearRegs s).res = 0 := rfl
@[simp] theorem clearRegs_ke (s : State) : (clearRegs s).ke = 0 := rfl
@[simp] theorem clearRegs_kn (s : State) : (clearRegs s).kn = 0 := rfl
@[simp] theorem clearRegs_kd (s : State) : (clearRegs s).kd = 0 := rfl
@[simp] theorem clearRegs_rngWords (s : State) : (clearRegs s).rngWords = s.rngWords := rfl
@[simp] theorem clearRegs_rngUsed (s : State) : (clearRegs s).rngUsed = s.rngUsed := rfl
@[simp] theorem clearRegs_host (s : State) : (clearRegs s).host = s.host := rfl
@[simp] theorem clearRegs_replies (s : State) : (clearRegs s).replies = s.replies := rfl

end Sys2Proof.Machine
end

