-- ==== Sys2Proof/Laws/Ops.lean ====
section
/-! SUPPORT. One lemma for each shared operation that says what it can do. -/

namespace Sys2Proof.Machine

/-- chk answers its argument exactly when that fits (00_scope.md R11). -/
theorem chk_eq_ok_iff {v w : Int} : chk v = .ok w ↔ Fits v ∧ w = v := by
  unfold chk
  split
  · next h => exact ⟨fun e => ⟨h, by injection e with e; exact e.symm⟩, fun ⟨_, e⟩ => by rw [e]⟩
  · next h => exact ⟨fun e => by injection e, fun ⟨f, _⟩ => absurd f h⟩

theorem chk_of_fits {v : Int} (h : Fits v) : chk v = .ok v := chk_eq_ok_iff.2 ⟨h, rfl⟩

theorem chk_of_not_fits {v : Int} (h : ¬ Fits v) : chk v = .error .overflow := if_neg h

/-- A register's signed value always fits. -/
theorem fits_toInt (w : Word) : Fits w.toInt := by
  have h₁ := @BitVec.toInt_lt 64 w
  have h₂ := @BitVec.le_toInt 64 w
  constructor <;> simp only [int64Min, int64Max] <;> omega

/-- A value that fits survives being written to a register and read back. -/
theorem toInt_ofInt_of_fits {v : Int} (h : Fits v) : (BitVec.ofInt 64 v).toInt = v := by
  obtain ⟨h₁, h₂⟩ := h
  simp only [int64Min, int64Max] at h₁ h₂
  rw [BitVec.toInt_ofInt]
  exact Int.bmod_eq_of_le (by norm_num; omega) (by norm_num; omega)

/-- A command whose result goes to RES ends with BUSY = 0. -/
@[simp] theorem finishRes_busy (r : Except Exc Int) (s : State) : (finishRes r s).busy = false := by
  cases r <;> rfl

/-- A drawn suffix is counted as what was dropped (40_primegen.md R96). -/
theorem dropWords_eq (k : Nat) (s : State) (h : k ≤ s.rngWords.length) :
    dropWords k s = { s with rngWords := s.rngWords.drop k, rngUsed := s.rngUsed + k } := by
  simp only [dropWords, consume, List.length_drop]
  congr 2
  omega

/-- The candidate of a word is its low bits above PRIME_LO, when they are below N (40_primegen.md R92). -/
theorem candidateOf_eq_some_iff {P : Params} {w : Word} {c : Int} :
    candidateOf P w = some c ↔
      (low w.toNat (bitlen (P.primeHi - P.primeLo - 1).toNat) : Int) < P.primeHi - P.primeLo ∧
        c = P.primeLo + low w.toNat (bitlen (P.primeHi - P.primeLo - 1).toNat) := by
  simp only [candidateOf]
  split
  · next h => simp only [Option.some.injEq, h, true_and]; exact eq_comm
  · next h => exact ⟨fun e => by simp at e, fun e => absurd e.1 h⟩

/-- A candidate lies in the half-open range (40_primegen.md R90). -/
theorem candidateOf_range {P : Params} {w : Word} {c : Int} (h : candidateOf P w = some c) :
    P.primeLo ≤ c ∧ c < P.primeHi := by
  obtain ⟨h₁, rfl⟩ := candidateOf_eq_some_iff.1 h
  omega

/-- A word that the sampler passes over: discarded, or a composite candidate. -/
def Skipped (P : Params) (w : Word) : Prop :=
  ∀ c, candidateOf P w = some c → isPrime c = false

theorem samplePrime_cons_skipped {P : Params} {w : Word} (ws : List Word) (h : Skipped P w) :
    samplePrime P (w :: ws) = samplePrime P ws := by
  cases hc : candidateOf P w with
  | none => simp [samplePrime, hc]
  | some c => simp [samplePrime, hc, h c hc]

theorem samplePrime_cons_prime {P : Params} {w : Word} {c : Int} (ws : List Word)
    (hc : candidateOf P w = some c) (hp : isPrime c = true) :
    samplePrime P (w :: ws) = some (c, ws) := by
  simp [samplePrime, hc, hp]

/-- Everything the sampler can answer (40_primegen.md R91): the candidate of the first word that is
not skipped, and the words after it. -/
theorem samplePrime_eq_some_iff {P : Params} {ws rest : List Word} {p : Int} :
    samplePrime P ws = some (p, rest) ↔
      ∃ pre w, ws = pre ++ w :: rest ∧ (∀ x ∈ pre, Skipped P x) ∧
        candidateOf P w = some p ∧ isPrime p = true := by
  induction ws with
  | nil => simp [samplePrime]
  | cons w ws ih =>
    by_cases hs : Skipped P w
    · rw [samplePrime_cons_skipped ws hs, ih]
      constructor
      · rintro ⟨pre, x, rfl, hpre, hx⟩
        exact ⟨w :: pre, x, rfl, by simpa [hs] using hpre, hx⟩
      · rintro ⟨pre, x, he, hpre, hc, hp⟩
        cases pre with
        | nil =>
          obtain ⟨rfl, -⟩ := List.cons.inj he
          exact absurd (hs p hc) (by simp [hp])
        | cons y pre =>
          obtain ⟨-, rfl⟩ := List.cons.inj he
          exact ⟨pre, x, rfl, fun z hz => hpre z (List.mem_cons_of_mem _ hz), hc, hp⟩
    · obtain ⟨c, hc, hp⟩ : ∃ c, candidateOf P w = some c ∧ isPrime c = true := by
        simpa [Skipped] using hs
      rw [samplePrime_cons_prime ws hc hp]
      constructor
      · intro h
        obtain ⟨rfl, rfl⟩ : c = p ∧ ws = rest := by simpa using h
        exact ⟨[], w, rfl, by simp, hc, hp⟩
      · rintro ⟨pre, x, he, hpre, hx, hxp⟩
        cases pre with
        | nil =>
          obtain ⟨rfl, rfl⟩ := List.cons.inj he
          simp_all
        | cons y pre =>
          obtain ⟨rfl, -⟩ := List.cons.inj he
          exact absurd (hpre w (by simp)) hs

/-- The sampler has not ended exactly when every word so far is skipped (40_primegen.md R95). -/
theorem samplePrime_eq_none_iff {P : Params} {ws : List Word} :
    samplePrime P ws = none ↔ ∀ w ∈ ws, Skipped P w := by
  induction ws with
  | nil => simp [samplePrime]
  | cons w ws ih =>
    by_cases hs : Skipped P w
    · rw [samplePrime_cons_skipped ws hs, ih]
      simp [hs]
    · obtain ⟨c, hc, hp⟩ : ∃ c, candidateOf P w = some c ∧ isPrime c = true := by
        simpa [Skipped] using hs
      rw [samplePrime_cons_prime ws hc hp]
      simp [hs]

/-- `drawCandidate` of 40_primegen.md R92 by itself: the first candidate, and the words left. -/
def drawCandidate (P : Params) : List Word → Option (Int × List Word)
  | [] => none
  | w :: ws =>
    match candidateOf P w with
    | some c => some (c, ws)
    | none => drawCandidate P ws

/-- `samplePrime` is R91's loop over `drawCandidate`: draw, test, retry (log 10). -/
theorem samplePrime_eq_drawCandidate (P : Params) (ws : List Word) :
    samplePrime P ws =
      match drawCandidate P ws with
      | none => none
      | some (c, rest) => if isPrime c then some (c, rest) else samplePrime P rest := by
  induction ws with
  | nil => rfl
  | cons w ws ih =>
    cases hc : candidateOf P w with
    | none => simpa [samplePrime, drawCandidate, hc] using ih
    | some c => simp [samplePrime, drawCandidate, hc]

/-- A prime is drawn from at least one word. -/
theorem samplePrime_length {P : Params} {ws rest : List Word} {p : Int}
    (h : samplePrime P ws = some (p, rest)) : rest.length < ws.length := by
  obtain ⟨pre, w, hw, -⟩ := samplePrime_eq_some_iff.1 h
  have := congrArg List.length hw
  simp only [List.length_append, List.length_cons] at this
  omega

/-- Two primes are drawn one after the other (44_keygen.md R137). -/
theorem samplePair_eq_some_iff {P : Params} {ws rest : List Word} {p q : Int} :
    samplePair P ws = some (p, q, rest) ↔
      ∃ mid, samplePrime P ws = some (p, mid) ∧ samplePrime P mid = some (q, rest) := by
  unfold samplePair
  cases h₁ : samplePrime P ws with
  | none => simp
  | some a =>
    obtain ⟨p', mid⟩ := a
    cases h₂ : samplePrime P mid with
    | none => simp [h₂]
    | some b =>
      obtain ⟨q', rest'⟩ := b
      simp only [h₂, Option.some.injEq, Prod.mk.injEq]
      constructor
      · rintro ⟨rfl, rfl, rfl⟩
        exact ⟨mid, ⟨rfl, rfl⟩, h₂⟩
      · rintro ⟨_, ⟨rfl, rfl⟩, h⟩
        rw [h₂] at h
        simpa using h

/-- A running command draws no more words than there are. -/
theorem drawLimit_le (s : State) : drawLimit s ≤ s.rngWords.length := by
  unfold drawLimit
  repeat' split
  all_goals omega

/-- What reset does (70_reset_and_hazards.md R210, R212, R214): every register 0, exactly the words
drawn consumed. -/
theorem assertReset_eq (drawn : Nat) (s : State) :
    assertReset drawn s = { State.reset with
      rngWords := s.rngWords.drop (min drawn (drawLimit s)),
      rngUsed := s.rngUsed + min drawn (drawLimit s), host := s.host, replies := s.replies } := by
  have h := drawLimit_le s
  rw [assertReset, dropWords_eq _ _ (by omega)]
  rfl

/-- The host's coming actions have no part in what the engine can have drawn. -/
@[simp] theorem drawLimit_setHost (h : List HostEvent) (s : State) :
    drawLimit (setHost h s) = drawLimit s := rfl

/-- The window answers a register exactly at the register's own address, 8 bytes wide, whatever the
base, if that is a multiple of 8 (20_memory.md R50, R53). -/
theorem windowReg_offset (k : Nat) (r : Reg) : windowReg (8 * k) (8 * k + r.offset) 8 = some r := by
  cases r <;> simp [windowReg, admitted, Config.window, Reg.offset, regAtOffset]

theorem windowReg_base_offset (r : Reg) : windowReg Config.base (Config.base + r.offset) 8 = some r :=
  windowReg_offset _ r

/-- A poll records STATUS and goes on (30_encoding.md R79). -/
theorem pollStatus_eq (h : List HostEvent) (s : State) :
    pollStatus h s = reply (.data s.status) (setHost h s) := by
  simp only [pollStatus, hostRead, windowReg_base_offset]
  rfl

/-- Every access that is not 8 bytes, aligned and inside the window is refused (20_memory.md R55). -/
theorem windowReg_refused {base addr size : Nat}
    (h : size ≠ 8 ∨ addr % 8 ≠ 0 ∨ addr < base ∨ base + Config.window ≤ addr) :
    windowReg base addr size = none := by
  unfold windowReg
  split
  · next h' =>
    simp only [admitted, Bool.and_eq_true, beq_iff_eq, decide_eq_true_eq] at h'
    omega
  · rfl

/-- A write to the window leaves the engine as it is while BUSY = 1 (70_reset_and_hazards.md R218). -/
theorem writeReg_busy {r : Reg} {v : Word} {s : State} (h : s.busy = true) : writeReg r v s = s := by
  cases r <;> simp [writeReg, h]

/-- No command answers anything but a next state. -/
theorem exec_next (i : Instr) (s : State) : ∃ t, exec i s = .next t := by
  cases i <;> exact ⟨_, rfl⟩

/-- What the engine's step does (70_reset_and_hazards.md R219). -/
theorem engineStep_cases (s : State) :
    (s.busy = false ∧ engineStep s = .next s) ∨
      (s.busy = true ∧ ∃ i, decode s.cmdreg = .ok i ∧ engineStep s = exec i s) ∨
      (s.busy = true ∧ ∃ e, decode s.cmdreg = .error e ∧ engineStep s = .next (raise .illegal s)) := by
  unfold engineStep
  cases hb : s.busy with
  | false => simp
  | true =>
    cases hd : decode s.cmdreg with
    | ok i => exact .inr (.inl ⟨rfl, i, rfl, by simp⟩)
    | error e => exact .inr (.inr ⟨rfl, e, rfl, by simp⟩)

/-- A host's unit call of an idle engine runs the command on the operand written (30_encoding.md R80). -/
theorem unitCall_eq {i : Instr} {v : Int} {s t : State} (hb : s.busy = false)
    (he : exec i { s with opa := BitVec.ofInt 64 v, cmdreg := encode i, busy := true } = .next t) :
    unitCall i v s = (t, if t.err = errNone then .ok t.res.toInt else .error (hostErrorOf t.err)) := by
  have hd : decode (encode i) = .ok i := by cases i <;> rfl
  simp [unitCall, engineNext, engineStep, writeReg, hb, accept, hd, he]

/-- When the engine has the turn, the step is its completion step (20_memory.md R60). -/
theorem step_of_engineTurn {s : State} {h : List HostEvent} (hb : s.busy = true)
    (ht : s.EngineTurn h) : step s = engineStep (setHost h s) := by
  rcases ht with ⟨e, rfl⟩ | e | ⟨rest, e, rfl⟩
  · rw [show setHost [] s = s by simp [setHost, ← e]]
    simp [step, systemStep, e]
  · simp [step, systemStep, e]
  · simp [step, systemStep, e, hb]

/-- Everything one step of the system can do (20_memory.md R60). -/
theorem step_cases {s t : State} (h : step s = .next t) :
    (∃ h', engineStep (setHost h' s) = .next t) ∨
      (∃ h' addr size, t = hostRead Config.base addr size (setHost h' s)) ∨
      (∃ h' addr size v, t = hostWrite Config.base addr size v (setHost h' s)) ∨
      (∃ h' drawn, s.host = .reset drawn :: h' ∧ t = assertReset drawn (setHost h' s)) := by
  unfold step systemStep at h
  split at h
  · next e => exact .inl ⟨[], by rwa [show setHost [] s = s by simp [setHost, ← e]]⟩
  · next rest e => exact .inl ⟨rest, h⟩
  · next k rest e =>
    split at h
    · split at h
      · exact .inl ⟨_, h⟩
      · exact .inr (.inl ⟨_, _, _, by injection h with h; exact h.symm⟩)
    · exact .inr (.inl ⟨rest, _, _, by injection h with h; exact h.symm⟩)
  · next addr size rest e => exact .inr (.inl ⟨rest, addr, size, by injection h with h; exact h.symm⟩)
  · next addr size v rest e =>
    exact .inr (.inr (.inl ⟨rest, addr, size, v, by injection h with h; exact h.symm⟩))
  · next drawn rest e =>
    exact .inr (.inr (.inr ⟨rest, drawn, e, by injection h with h; exact h.symm⟩))

/-- A read changes nothing of the state but the replies (20_memory.md R53). -/
theorem hostRead_eq (base addr size : Nat) (s : State) : ∃ r, hostRead base addr size s = reply r s := by
  unfold hostRead
  split
  · exact ⟨_, rfl⟩
  · exact ⟨_, rfl⟩

/-- A write replies and has the effect of writing one register, or none (20_memory.md R54, R55). -/
theorem hostWrite_eq (base addr size : Nat) (v : Word) (s : State) :
    (∃ r, hostWrite base addr size v s = reply .done (writeReg r v s)) ∨
      hostWrite base addr size v s = reply .busError s := by
  unfold hostWrite
  split
  · exact .inl ⟨_, rfl⟩
  · exact .inr rfl

/-- The word that withFetchWord places is what the next step completes. -/
theorem step_withFetchWord {s : State} {nbits w : Nat} {i : Instr} (hs : s.host = [])
    (hd : decode (BitVec.ofNat 64 (w % 2 ^ nbits)) = .ok i) :
    step (s.withFetchWord nbits w) = exec i (s.withFetchWord nbits w) := by
  have hh : (s.withFetchWord nbits w).host = [] := by
    simp [State.withFetchWord, placeWord, hs]
  have hc : (s.withFetchWord nbits w).cmdreg = BitVec.ofNat 64 (w % 2 ^ nbits) := rfl
  have hb : (s.withFetchWord nbits w).busy = true := rfl
  simp [step, systemStep, engineStep, hh, hb, hc, hd]

end Sys2Proof.Machine
end

