-- ==== Sys2Proof/Laws/PerInstr.lean ====
section
/-! SUPPORT. Statements made per command: the command word of every command decodes to it, whether
handed over as a word or as the window's bytes (30_encoding.md R71, R74). -/

namespace Sys2Proof.Laws.RoundTrip

/-- The word and the bytes of i decode to i. -/
def Statement (i : Sys2Proof.Instr) : Prop :=
  Sys2Proof.decode (Sys2Proof.encode i) = .ok i ∧
    Sys2Proof.decodeBytes (Sys2Proof.encodeBytes i) = .ok (i, [])

theorem primegen : Statement .primegen := ⟨rfl, rfl⟩
theorem isprime : Statement .isprime := ⟨rfl, rfl⟩
theorem modinv : Statement .modinv := ⟨rfl, rfl⟩
theorem modexp : Statement .modexp := ⟨rfl, rfl⟩
theorem keygen : Statement .keygen := ⟨rfl, rfl⟩
theorem enc : Statement .enc := ⟨rfl, rfl⟩
theorem dec : Statement .dec := ⟨rfl, rfl⟩

end Sys2Proof.Laws.RoundTrip
end

