-- ==== Sys2Proof/Tests/Slice0.lean ====
section
/-! SUPPORT. Small tests: ill-formed terms refused, decoding of words written out from the spec's
encoding, one or two vectors of 95_test_vectors.md per command, and for each statement with
hypotheses a witness that meets them. -/

namespace Sys2Proof.Tests

open Sys2Proof Sys2Proof.Machine

/-- A busy state with the given operands. -/
def ops (a b m : Int) : State :=
  { State.reset with busy := true, opa := BitVec.ofInt 64 a, opb := BitVec.ofInt 64 b,
                     opm := BitVec.ofInt 64 m }

/-- A busy state with the given random words to come. -/
def words (ws : List Word) : State := { State.reset with busy := true, rngWords := ws }

/-- A busy state with the key of 44_keygen.md R135 and the operand a. -/
def keyed (a : Int) : State :=
  { State.reset with busy := true, keyValid := true, ke := 65537, kn := 10403, kd := 10073,
                     opa := BitVec.ofInt 64 a }

/-- The next state, if there is one. -/
def after (o : Host.Outcome State Fault Refusal) : Option State :=
  match o with
  | .next t => some t
  | _ => none

/-- RES, ERR and BUSY after a command. -/
def out (o : Host.Outcome State Fault Refusal) : Option (Int × BitVec 8 × Bool) :=
  (after o).map (fun t => (t.res.toInt, t.err, t.busy))

/-! Well-formedness: each check refuses an ill-formed term. -/

-- R75: the word 0, the word 8, and a nonzero bit above OPC are no commands.
theorem test_word_zero_illegal : wordLegal 0x0 = false := by decide
theorem test_word_eight_illegal : wordLegal 0x8 = false := by decide
theorem test_word_seven_legal : wordLegal 0x7 = true := by decide
theorem test_bit8_illegal : decode 0x106 = .error .zeroField := by rfl
theorem test_opc0_illegal : decode 0x0 = .error .opcode := by rfl
theorem test_opc8_illegal : decode 0x8 = .error .opcode := by rfl
theorem test_short_bytes : decodeBytes [0x01, 0x00] = .error .truncated := by rfl
-- R6, R7: each constraint on the parameters.
theorem test_params_hardware : Config.params.wellFormed = true := by decide
theorem test_params_lo_negative : (Params.mk (-1) 10 3).wellFormed = false := by decide
theorem test_params_empty_range : (Params.mk 10 10 3).wellFormed = false := by decide
theorem test_params_hi_too_big : (Params.mk 10 9223372036854775808 3).wellFormed = false := by decide
theorem test_params_e_zero : (Params.mk 3 6 0).wellFormed = false := by decide
theorem test_params_e_too_big : (Params.mk 3 6 9223372036854775808).wellFormed = false := by decide
-- R8: BASE is a multiple of 8.
theorem test_base_misaligned : baseWellFormed 0x1004 = false := by decide
theorem test_base_of_config : baseWellFormed Config.base = true := by
  simp [baseWellFormed, Config.base]

/-! Decoding: ZERO in bits 63:8, OPC in bits 7:0, written out from R70 and R74. -/

theorem test_decode_primegen : decode (0#56 ++ 0b00000001#8 : BitVec 64) = .ok .primegen := by rfl
theorem test_decode_isprime : decode (0#56 ++ 0b00000010#8 : BitVec 64) = .ok .isprime := by rfl
theorem test_decode_modinv : decode (0#56 ++ 0b00000011#8 : BitVec 64) = .ok .modinv := by rfl
theorem test_decode_modexp : decode (0#56 ++ 0b00000100#8 : BitVec 64) = .ok .modexp := by rfl
theorem test_decode_keygen : decode (0#56 ++ 0b00000101#8 : BitVec 64) = .ok .keygen := by rfl
theorem test_decode_enc : decode (0#56 ++ 0b00000110#8 : BitVec 64) = .ok .enc := by rfl
theorem test_decode_dec : decode (0#56 ++ 0b00000111#8 : BitVec 64) = .ok .dec := by rfl
theorem test_table_word : decodeTableWord 64 0x5 = some .keygen := by decide
theorem test_table_word_illegal : decodeTableWord 64 0x105 = none := by decide

/-! Vectors of 95_test_vectors.md, sections 2 to 7. -/

-- Section 2: 0x3E7 is discarded, 100 is composite, 101 is prime.
theorem test_primegen :
    (after (exec .primegen (words [0x3E7, 0x0, 0x1]))).map (fun t => (t.res, t.rngUsed, t.busy)) =
      some (101, 3, false) := by decide
-- Section 2: only bits 9:0 of a word count.
theorem test_primegen_low_bits : out (exec .primegen (words [0xFFFFFFFFFFFFFC01])) = some (101, 0, false) := by
  decide
-- Section 3: the bound is inclusive at 25; 997 takes five passes.
theorem test_isprime_square : out (exec .isprime (ops 25 0 0)) = some (0, 0, false) := by decide
theorem test_isprime_prime : out (exec .isprime (ops 997 0 0)) = some (1, 0, false) := by decide
-- Section 4: the source's vector; operands that are not coprime leave RES.
theorem test_modinv : out (exec .modinv (ops 17 0 3120)) = some (2753, 0, false) := by decide
theorem test_modinv_noinv : out (exec .modinv (ops 4 0 6)) = some (0, 4, false) := by decide
-- Section 5: the source's vector; the square after the last bit is skipped, the product before is not.
theorem test_modexp : out (exec .modexp (ops 65 17 3233)) = some (2790, 0, false) := by decide
theorem test_modexp_overflow : out (exec .modexp (ops 2 63 int64Max)) = some (0, 3, false) := by decide
-- Section 6: the worked key; equal primes.
theorem test_keygen :
    (after (exec .keygen (words [0x3E7, 0x1, 0x0, 0x3]))).map
      (fun t => (t.ke.toNat, t.kn.toNat, t.kd.toNat, t.keyValid)) = some (65537, 10403, 10073, true) := by
  decide
theorem test_keygen_equal : out (exec .keygen (words [0x1, 0x1])) = some (0, 5, false) := by decide
-- Section 6, other parameters: gcd(3, 12) = 3 fails; the textbook key.
theorem test_keygen_gcd : keyFrom ⟨3, 8, 3⟩ 3 7 = .error .keyGen := by rfl
-- Section 7.
theorem test_enc : out (exec .enc (keyed 65)) = some (6178, 0, false) := by decide
theorem test_enc_domain : out (exec .enc (keyed 10403)) = some (0, 8, false) := by decide
theorem test_dec : out (exec .dec (keyed 6178)) = some (65, 0, false) := by decide
theorem test_dec_nokey : out (exec .dec (ops (-1) 0 0)) = some (0, 6, false) := by decide

/-! The interface, section 9, at the base 0x1000. -/

theorem test_read_narrow :
    (hostRead 0x1000 0x1010 4 State.reset).replies = [.busError] := by decide
theorem test_read_misaligned :
    (hostRead 0x1000 0x1014 8 State.reset).replies = [.busError] := by decide
theorem test_read_past_window :
    (hostRead 0x1000 0x1048 8 State.reset).replies = [.busError] := by decide
theorem test_write_then_read :
    (hostRead 0x1000 0x1010 8
      (hostWrite 0x1000 0x1010 8 0xFFFFFFFFFFFFFFFF State.reset)).replies =
      [.data 0xFFFFFFFFFFFFFFFF, .done] := by decide
theorem test_status_keylocked :
    ({ State.reset with keyValid := true, err := 0x07 } : State).status = 0x702 := by decide
-- R58: after WR OPA, 0x0102030405060708 the byte 0x08 is lowest and 0x01 highest.
theorem test_byte_lanes :
    (windowByte 0x10 { State.reset with opa := 0x0102030405060708 },
      windowByte 0x17 { State.reset with opa := 0x0102030405060708 }) = (some 0x08, some 0x01) := by
  decide

/-! The codecs, 46_host_codecs.md R172: "A" and "6178"; "101" and "111". -/

theorem test_encrypt_text :
    (encryptText [0x41] { keyed 0 with busy := false }).2 = .ok [0x36, 0x31, 0x37, 0x38] := by rfl
theorem test_decrypt_text :
    (decryptText [0x20, 0x36, 0x31, 0x37, 0x38, 0x20] { keyed 0 with busy := false }).2 =
      .ok [0x41] := by rfl
theorem test_encrypt_binary :
    (encryptBinaryTokens [0x31, 0x30, 0x31] { keyed 0 with busy := false }).2 =
      .ok [0x31, 0x31, 0x31] := by rfl

-- R172: "111" decrypts to "110", so "101" does not come back.
theorem test_decrypt_binary :
    (decryptBinaryTokens [0x31, 0x31, 0x31] { keyed 0 with busy := false }).2 =
      .ok [0x31, 0x31, 0x30] := by rfl

/-- A host that constructs a key: equal primes first, then the worked key (70 R217, P3 of 95). -/
theorem test_construct :
    ((constructKey { words [0x1, 0x1, 0x1, 0x3] with busy := false }).kn,
      (constructKey { words [0x1, 0x1, 0x1, 0x3] with busy := false }).rngUsed) = (10403, 4) := by
  decide

/-! Witnesses: each statement with hypotheses has a state that meets them. -/

theorem worked_key_isKey : IsKey Config.params 65537 10403 10073 :=
  ⟨101, 103, by norm_num, by norm_num, by decide, by decide, by decide, by decide, by decide,
    by decide, by decide, by decide, by decide, by decide⟩

theorem keyed_keyInv (a : Int) : (keyed a).KeyInv := .inr ⟨rfl, worked_key_isKey⟩

theorem keyed_inv : (keyed 65).Inv := ⟨keyed_keyInv 65, by unfold State.ErrInv; decide⟩

theorem passedOver_discarded : PassedOver 0x3E7 := fun _ h => absurd h.1 (by decide)
theorem passedOver_composite : PassedOver 0x0 := by
  rintro p ⟨-, rfl, hp⟩
  exact absurd hp (show ¬ Nat.Prime 100 by norm_num)
theorem gives_101 : GivesPrime 0x1 101 := ⟨by decide, by decide, by norm_num⟩
theorem gives_103 : GivesPrime 0x3 103 := ⟨by decide, by decide, by norm_num⟩

theorem gives_997 : GivesPrime 0x381 997 := ⟨by decide, by decide, by norm_num⟩
theorem passedOver_900 : PassedOver 0x384 := fun _ h => absurd h.1 (by decide)

/-- A busy state that has latched the command word w. -/
def latched (w : Word) (h : List HostEvent) : State :=
  { State.reset with busy := true, cmdreg := w, host := h }

theorem witness_DecodeEncodeAgree :
    decodeBytes [0x07, 0, 0, 0, 0, 0, 0, 0, 0xFF] = .ok (.dec, [0xFF]) := by rfl
theorem witness_StepRunsDecodedCommand (h : List HostEvent) :
    (latched 0x2 h).busy = true ∧ decode (latched 0x2 h).cmdreg = .ok .isprime ∧
      (latched 0x2 h).host = h :=
  ⟨rfl, show decode 0x2 = .ok .isprime by rfl, rfl⟩
theorem witness_IllegalWordRaisesIllegal :
    (latched 0x100 []).busy = true ∧ (latched 0x100 []).EngineTurn [] ∧
      (latched 0x100 []).cmdreg.extractLsb' 8 56 ≠ 0 := ⟨rfl, .inl ⟨rfl, rfl⟩, by decide⟩
theorem witness_IllegalWordRaisesIllegal_opc0 :
    (latched 0x0 [.wait 0]).busy = true ∧ (latched 0x0 [.wait 0]).EngineTurn [.wait 1] ∧
      ((latched 0x0 [.wait 0]).cmdreg.extractLsb' 0 8).toNat < 0x01 :=
  ⟨rfl, .inr (.inr ⟨[], rfl, rfl⟩), by decide⟩
theorem witness_IllegalWordRaisesIllegal_opc8 :
    (latched 0x8 [.pause, rd .res]).busy = true ∧
      (latched 0x8 [.pause, rd .res]).EngineTurn [rd .res] ∧
      0x07 < ((latched 0x8 [.pause, rd .res]).cmdreg.extractLsb' 0 8).toNat :=
  ⟨rfl, .inr (.inl rfl), by decide⟩
theorem witness_IdleEngineStands (h : List HostEvent) :
    ({ State.reset with host := h } : State).busy = false ∧
      ({ State.reset with host := h } : State).host = h := ⟨rfl, rfl⟩
theorem witness_CommandAccept (b : Bool) :
    ({ State.reset with busy := b, host := [cmd .enc] } : State).busy = b ∧
      ({ State.reset with busy := b, host := [cmd .enc] } : State).host =
        [.write (Config.base + 0x00) 8 0x6] := ⟨rfl, rfl⟩
theorem witness_CommandAccept_read :
    ({ State.reset with host := [rd .cmd] } : State).host = [.read (Config.base + 0x00) 8] := rfl
theorem witness_AdmittedWrites (b : Bool) (off : Nat) :
    ({ State.reset with busy := b, host := [.write (Config.base + off) 8 5] } : State).busy = b ∧
      ({ State.reset with busy := b, host := [.write (Config.base + off) 8 5] } : State).host =
        [.write (Config.base + off) 8 5] := ⟨rfl, rfl⟩
theorem witness_AdmittedReads (s : State) :
    (0x40, s.kd) ∈ [(0x00, 0), (0x08, s.status), (0x10, s.opa), (0x18, s.opb), (0x20, s.opm),
      (0x28, s.res), (0x30, s.ke), (0x38, s.kn), (0x40, s.kd)] ∧
    ({ s with host := [rd .kd] } : State).host = [.read (Config.base + 0x40) 8] := by
  exact ⟨by simp, rfl⟩
theorem witness_RefusedAccesses_past_window :
    Config.base + 0x48 ≤ Config.base + 0x48 ∧
      ({ State.reset with host := [.read (Config.base + 0x48) 8] } : State).host =
        [.read (Config.base + 0x48) 8] := ⟨Nat.le_refl _, rfl⟩
theorem witness_RefusedAccesses_narrow : (4 : Nat) ≠ 8 := by decide
theorem witness_RefusedAccesses_misaligned : (Config.base + 0x14) % 8 ≠ 0 := by
  unfold Config.base
  omega
theorem witness_BusyHazard :
    (latched 0x2 [wr .cmd 0x4]).busy = true ∧
      (latched 0x2 [wr .cmd 0x4]).host = [.write (Config.base + 0x00) 8 0x4] := ⟨rfl, rfl⟩
theorem witness_WaitPollsStatus :
    ({ State.reset with host := [.wait 2] } : State).host = [.wait 2] ∧
      ({ State.reset with host := [.wait 2] } : State).busy = false := ⟨rfl, rfl⟩
theorem witness_WaitPollsStatus_busy :
    (latched 0x2 [.wait (0 + 1)]).host = [.wait (0 + 1)] ∧
      (latched 0x2 [.wait (0 + 1)]).busy = true := ⟨rfl, rfl⟩
theorem witness_WaitMakesAnyNumberOfReads (n : Nat) :
    (latched 0x2 [.wait n]).busy = true ∧ decode (latched 0x2 [.wait n]).cmdreg = .ok .isprime ∧
      (latched 0x2 [.wait n]).host = [.wait n] ∧
      ∃ t, exec .isprime { latched 0x2 [.wait n] with
        host := [.wait 1],
        replies := List.replicate n (.data (latched 0x2 [.wait n]).status) ++ [] } = .next t ∧
        t.busy = false :=
  ⟨rfl, show decode 0x2 = .ok .isprime by rfl, rfl, _, rfl, rfl⟩
theorem witness_AssertedResetClears :
    ({ latched 0x1 [.reset 2] with rngWords := [0x0, 0x0] } : State).host = [.reset 2] := rfl
-- R212: a PRIMEGEN that had drawn two words for 0x0, 0x0 leaves the third to come.
theorem test_reset_keeps_words_consumed :
    ((assertReset 2 { latched 0x1 [] with rngWords := [0x0, 0x0, 0x1] }).rngWords,
      (assertReset 2 { latched 0x1 [] with rngWords := [0x0, 0x0, 0x1] }).rngUsed) =
      ([0x1], 2) := by decide
-- R96: it cannot have drawn past the first accepting word.
theorem test_reset_bounds_words :
    (assertReset 9 { latched 0x1 [] with rngWords := [0x0, 0x1, 0x3] }).rngUsed = 2 := by decide
theorem witness_ModInvContract :
    (0 : Int) ≤ 17 ∧ (17 : Int) ≤ int64Max ∧ (1 : Int) < 3120 ∧ (3120 : Int) ≤ int64Max ∧
      Int.gcd 17 3120 = 1 := by decide
theorem witness_ModInvContract_modulus_one :
    (0 : Int) ≤ int64Max ∧ int64Max ≤ int64Max ∧ (1 : Int) ≤ 1 ∧ (1 : Int) ≤ int64Max := by decide
theorem witness_ModinvCompletes :
    0 ≤ (ops 5 0 1).opa.toInt ∧ 0 < (ops 5 0 1).opm.toInt ∧
      Int.gcd (ops 5 0 1).opa.toInt (ops 5 0 1).opm.toInt = 1 := by decide
theorem witness_ModinvRange : (ops 3 0 0).opm.toInt ≤ 0 := by decide
theorem witness_ModinvRange_negative : (ops (-1) 0 1).opa.toInt < 0 := by decide
theorem witness_ModinvNoInverse :
    0 ≤ (ops 0 0 7).opa.toInt ∧ 1 < (ops 0 0 7).opm.toInt ∧
      Int.gcd (ops 0 0 7).opa.toInt (ops 0 0 7).opm.toInt ≠ 1 := by decide
theorem witness_ModExpContract : modExp 65 17 3233 = .ok 2790 := by rfl
theorem witness_ModexpCompletes :
    0 ≤ (ops 3037000499 2 3037000500).opa.toInt ∧ 0 ≤ (ops 3037000499 2 3037000500).opb.toInt ∧
      0 < (ops 3037000499 2 3037000500).opm.toInt ∧
      (ops 3037000499 2 3037000500).opm.toInt ≤ 3037000500 := by decide
theorem witness_ModexpPowerOrOverflow :
    0 ≤ (ops 2 62 int64Max).opa.toInt ∧ 0 ≤ (ops 2 62 int64Max).opb.toInt ∧
      0 < (ops 2 62 int64Max).opm.toInt := by decide
-- R127: (2, 63, INT64_MAX) overflows in the multiply step at bit 5, (2^40, 2, 2^62) in a square step.
theorem witness_ModexpPowerOrOverflow_multiply : ProductOverflows 2 63 int64Max :=
  ⟨5, .inl (by decide)⟩
theorem witness_ModexpPowerOrOverflow_square : ProductOverflows (2 ^ 40) 2 (2 ^ 62) :=
  ⟨0, .inr (by decide)⟩
theorem witness_ModexpPowerOrOverflow_none : ¬ ProductOverflows 7 0 int64Max := by
  rintro ⟨j, ⟨h, -⟩ | ⟨h, -⟩⟩
  · simp at h
  · simp at h
theorem witness_ModexpRange :
    (ops 2 (-1) 1).opb.toInt < 0 ∧ (ops 2 2 0).opm.toInt ≤ 0 ∧ (ops (-1) 2 5).opa.toInt < 0 := by
  decide
theorem witness_ModexpModulusOneExponentZero :
    (0 : Int) ≤ 0 ∧ (0 : Int) ≤ 0 ∧ (1 : Int) < 2 := by decide
theorem witness_ModexpReducesBase : (0 : Int) ≤ 12 ∧ (1 : Int) < 5 := by decide
theorem witness_PrimegenTakesFirstPrime :
    (words [0x3E7, 0x0, 0x1, 0x3]).rngWords = [0x3E7, 0x0] ++ 0x1 :: [0x3] ∧
      (∀ x ∈ [(0x3E7 : Word), 0x0], PassedOver x) ∧ GivesPrime 0x1 101 :=
  ⟨rfl, by simpa using ⟨passedOver_discarded, passedOver_composite⟩, gives_101⟩
theorem witness_PrimegenHangsWithoutPrime : ∀ x ∈ (words [0x0, 0x3E7]).rngWords, PassedOver x := by
  simpa [words] using ⟨passedOver_composite, passedOver_discarded⟩
theorem witness_SampledPrimeInRange :
    (Params.mk 7 8 3).wellFormed = true ∧ samplePrime ⟨7, 8, 3⟩ [0xFFFF] = some (7, []) := by decide
theorem witness_KeygenBuildsKey :
    (words [0x3E7, 0x1, 0x0, 0x3]).keyValid = false ∧
      (words [0x3E7, 0x1, 0x0, 0x3]).rngWords = [0x3E7] ++ 0x1 :: ([0x0] ++ 0x3 :: []) ∧
      (∀ x ∈ [(0x3E7 : Word)], PassedOver x) ∧ GivesPrime 0x1 101 ∧
      (∀ x ∈ [(0x0 : Word)], PassedOver x) ∧ GivesPrime 0x3 103 ∧ (101 : Nat) ≠ 103 :=
  ⟨rfl, rfl, by simpa using passedOver_discarded, gives_101, by simpa using passedOver_composite,
    gives_103, by decide⟩
theorem witness_KeygenRejectsEqualPrimes :
    (words [0x1, 0x1]).keyValid = false ∧ (words [0x1, 0x1]).rngWords = [] ++ 0x1 :: ([] ++ 0x1 :: []) ∧
      GivesPrime 0x1 101 := ⟨rfl, rfl, gives_101⟩
theorem witness_KeygenLocked : (keyed 0).keyValid = true := rfl
theorem witness_KeygenHangsWithoutTwoPrimes :
    (words [0x1, 0x0]).keyValid = false ∧
      ∃ pre w p rest, (words [0x1, 0x0]).rngWords = pre ++ w :: rest ∧ (∀ x ∈ pre, PassedOver x) ∧
        GivesPrime w p ∧ ∀ x ∈ rest, PassedOver x :=
  ⟨rfl, [], 0x1, 101, [0x0], rfl, by simp, gives_101, by simpa using passedOver_composite⟩
theorem witness_KeygenHangsWithoutTwoPrimes_none :
    (words [0x0]).keyValid = false ∧ ∀ x ∈ (words [0x0]).rngWords, PassedOver x :=
  ⟨rfl, by simpa [words] using passedOver_composite⟩
theorem witness_KeygenSuccessIsAKey :
    (Params.mk 53 62 17).wellFormed = true ∧ (words [0x8, 0x0]).keyValid = false ∧
      (keygenWith ⟨53, 62, 17⟩ (words [0x8, 0x0])).keyValid = true := by decide
theorem witness_KeyConstructionFailures :
    (Params.mk 3 8 3).wellFormed = true ∧ (2 : Int) ≤ 5 ∧ (2 : Int) ≤ 7 ∧ (5 : Int) ≠ 7 ∧
      (5 * 7 : Int) ≤ int64Max ∧ Int.gcd 3 ((5 - 1) * (7 - 1)) ≠ 1 := by decide
theorem witness_KeyConstructionFailures_equal :
    Config.params.wellFormed = true ∧ (2 : Int) ≤ 2 ∧ (2 : Int) = 2 := by decide
theorem witness_KeyConstructionFailures_overflow :
    (2 : Int) ≤ 3037000500 ∧ (3037000500 : Int) ≠ 3037000501 ∧
      int64Max < 3037000500 * 3037000501 := by decide
theorem witness_EncCompletes :
    (keyed 10402).KeyInv ∧ (keyed 10402).keyValid = true ∧ 0 ≤ (keyed 10402).opa.toInt ∧
      (keyed 10402).opa.toInt < (keyed 10402).kn.toInt := ⟨keyed_keyInv _, rfl, by decide, by decide⟩
theorem witness_DecCompletes :
    (keyed 0).KeyInv ∧ (keyed 0).keyValid = true ∧ 0 ≤ (keyed 0).opa.toInt ∧
      (keyed 0).opa.toInt < (keyed 0).kn.toInt := ⟨keyed_keyInv _, rfl, by decide, by decide⟩
theorem witness_EncDecNeedAKey : (ops 65 0 0).keyValid = false := rfl
theorem witness_EncDecDomain :
    (keyed 10403).keyValid = true ∧ (keyed 10403).kn.toInt ≤ (keyed 10403).opa.toInt ∧
      (keyed (-1)).opa.toInt < 0 := by decide
theorem witness_EncryptionRoundTrip :
    (keyed 65).KeyInv ∧ (keyed 65).keyValid = true ∧ 0 ≤ (keyed 65).opa.toInt ∧
      (keyed 65).opa.toInt < (keyed 65).kn.toInt := ⟨keyed_keyInv _, rfl, by decide, by decide⟩
theorem witness_CryptFixedValues :
    (keyed 10402).KeyInv ∧ (keyed 10402).keyValid = true ∧
      (keyed 10402).opa.toInt = (keyed 10402).kn.toInt - 1 ∧ (keyed 0).opa.toInt = 0 ∧
      (keyed 1).opa.toInt = 1 := ⟨keyed_keyInv _, rfl, by decide, by decide, by decide⟩
theorem witness_OnePrimitiveTwoUses :
    (after (exec .enc (keyed 65))).isSome = true ∧ (after (exec .dec (keyed 65))).isSome = true ∧
      (after (exec .modexp { keyed 65 with opb := 65537, opm := 10403 })).isSome = true := by decide
theorem witness_CommandsLeaveOperands (i : Instr) : ∃ t, exec i (keyed 65) = .next t := exec_next i _
theorem witness_OnlyKeygenWritesTheKey : ∃ t, exec .keygen (words [0x1, 0x3]) = .next t ∧
    t.keyValid = true := ⟨_, rfl, by decide⟩
theorem witness_OnlySamplersDrawWords : Instr.enc ≠ .primegen ∧ Instr.enc ≠ .keygen := by decide
theorem witness_ErrorsChangeOnlyErrAndBusy :
    (words [0x1, 0x1]).busy = true ∧ ∃ t, exec .keygen (words [0x1, 0x1]) = .next t ∧
      t.busy = false ∧ t.err ≠ 0 := ⟨rfl, _, rfl, by decide, by decide⟩
theorem witness_StepKeepsInv : (keyed 65).Inv ∧ ∃ t, step (keyed 65) = .next t :=
  ⟨keyed_inv, _, rfl⟩
theorem witness_KeyIsImmutable :
    (keyed 65).keyValid = true ∧ (∀ drawn rest, (keyed 65).host ≠ .reset drawn :: rest) ∧
      ∃ t, step (keyed 65) = .next t :=
  ⟨rfl, fun _ _ => by simp [keyed, State.reset], _, rfl⟩
theorem witness_ConstructionGivesAKeyOrWaits :
    State.reset.busy = false ∧ State.reset.keyValid = false := by decide
theorem witness_DecimalRoundTrip : ((9223372036854775807 : Nat) : Int) ≤ int64Max := by decide
theorem witness_BinaryTokenConversions_widths : (1 : Nat) ≤ 63 ∧ (63 : Nat) ≤ 63 := by decide
theorem witness_BinaryTokenConversions :
    binToInt [0x31, 0x30, 0x31] = some 5 := by decide
theorem witness_TextRoundTrip :
    ({ keyed 0 with busy := false } : State).KeyInv ∧
      ({ keyed 0 with busy := false } : State).keyValid = true ∧
      ({ keyed 0 with busy := false } : State).busy = false := ⟨keyed_keyInv 0, rfl, rfl⟩
/-- The token of width 13 and value 5 of R172: 799 fits 13 bits, though 2^13 < KN. -/
def token13 : Text := fixedBin 5 13
theorem tokens_token13 : tokens token13 = [token13] := by decide
theorem token13_fits : (5 : Nat) ^ 65537 % 10403 < 8192 := by decide +kernel
theorem witness_BinaryTokensRoundTrip :
    ∀ tok ∈ tokens token13, ∃ v, binToInt tok = some v ∧ v < (keyed 0).kn.toInt ∧
      v ^ (keyed 0).ke.toInt.toNat % (keyed 0).kn.toInt < 2 ^ tok.length := by
  rw [tokens_token13]
  simp only [List.mem_singleton, forall_eq]
  refine ⟨5, by decide, by decide, ?_⟩
  show (5 : Int) ^ 65537 % 10403 < 8192
  exact_mod_cast token13_fits
theorem witness_WideTokensNeverTruncate :
    ∀ tok ∈ tokens (fixedBin 65 14), ∃ v, binToInt tok = some v ∧ v < (keyed 0).kn.toInt ∧
      (keyed 0).kn.toInt ≤ 2 ^ tok.length := by
  rw [show tokens (fixedBin 65 14) = [fixedBin 65 14] by decide]
  simp only [List.mem_singleton, forall_eq]
  exact ⟨65, by decide, by decide, by decide⟩
theorem witness_BinaryTokensTruncateSilently :
    ∀ tok ∈ tokens [0x31, 0x30, 0x31], ∃ v, binToInt tok = some v ∧ v < (keyed 0).kn.toInt := by
  rw [show tokens [0x31, 0x30, 0x31] = [[0x31, 0x30, 0x31]] by decide]
  simp only [List.mem_singleton, forall_eq]
  exact ⟨5, by decide, by decide⟩
theorem witness_BinaryTokensTruncateSilently_domain :
    tokens (fixedBin 10403 14) = [] ++ fixedBin 10403 14 :: [] ∧
      binToInt (fixedBin 10403 14) = some 10403 ∧ (keyed 0).kn.toInt ≤ 10403 := by decide

end Sys2Proof.Tests
end

/-! Scope (00_scope.md): which commands draw random words. -/

section
namespace Sys2Proof.Machine

/-- The end of a command whose result goes to RES draws no word, whether it succeeds or raises. -/
@[simp] theorem finishRes_rngWords (r : Except Exc Int) (s : State) :
    (finishRes r s).rngWords = s.rngWords := by
  cases r <;> rfl

@[simp] theorem finishRes_rngUsed (r : Except Exc Int) (s : State) :
    (finishRes r s).rngUsed = s.rngUsed := by
  cases r <;> rfl

/-- Every command but the two samplers computes a value or an exception and ends with it at once: it
never waits for a random word (00_scope.md R15). -/
theorem exec_eq_finishRes {i : Instr} (hp : i ≠ .primegen) (hk : i ≠ .keygen) (s : State) :
    ∃ r, exec i s = .next (finishRes r s) := by
  cases i with
  | primegen => exact absurd rfl hp
  | keygen => exact absurd rfl hk
  | isprime => exact ⟨.ok (if isPrime (opA s) then 1 else 0), rfl⟩
  | modinv => exact ⟨modInv (opA s) (opM s), rfl⟩
  | modexp => exact ⟨modExp (opA s) (opB s) (opM s), rfl⟩
  | enc => exact ⟨cryptWith (keyE s) s, rfl⟩
  | dec => exact ⟨cryptWith (keyD s) s, rfl⟩

/-- Settles O49: such a command ends through `finishRes`, which clears BUSY and draws nothing. -/
theorem onlySamplersDrawWords : Obligations.OnlySamplersDrawWords := by
  intro i s hp hk
  obtain ⟨r, hr⟩ := exec_eq_finishRes hp hk s
  exact ⟨finishRes r s, hr, finishRes_busy r s, finishRes_rngWords r s, finishRes_rngUsed r s⟩

end Sys2Proof.Machine
end

/-! The tester of 41_isprime.md decides primality. -/

section
namespace Sys2Proof.Machine

/-- The least factor of a number prime to 6 is 1 or 5 modulo 6, as the trial divisors are. -/
theorem minFac_mod_six {n : ℕ} (h2 : n % 2 ≠ 0) (h3 : n % 3 ≠ 0) :
    n.minFac % 6 = 1 ∨ n.minFac % 6 = 5 := by
  have hd := Nat.minFac_dvd n
  have h2' : n.minFac % 2 ≠ 0 := fun h =>
    h2 (Nat.mod_eq_zero_of_dvd ((Nat.dvd_of_mod_eq_zero h).trans hd))
  have h3' : n.minFac % 3 ≠ 0 := fun h =>
    h3 (Nat.mod_eq_zero_of_dvd ((Nat.dvd_of_mod_eq_zero h).trans hd))
  omega

/-- A divisor strictly between 1 and n refutes primality. -/
theorem not_prime_of_mod_eq_zero {n d : ℕ} (hd : 2 ≤ d) (hn : d < n) (h : n % d = 0) :
    ¬ n.Prime :=
  Nat.not_prime_of_dvd_of_lt (Nat.dvd_of_mod_eq_zero h) hd hn

/-- One pass of trial division on naturals (41_isprime.md R101). -/
theorem trialLoop_succ (fuel n i : ℕ) :
    trialLoop (fuel + 1) n i =
      if i ≤ n / i then
        if n % i = 0 ∨ n % (i + 2) = 0 then false else trialLoop fuel n (i + 6 : ℕ)
      else true := by
  rw [trialLoop]
  norm_cast

/-- The trial divisors 5, 7, 11, 13, … decide primality of a number prime to 6, once no factor
below the divisor i is left (41_isprime.md R102). -/
theorem trialLoop_eq_decide_prime (fuel n i : ℕ) (h2 : n % 2 ≠ 0) (h3 : n % 3 ≠ 0)
    (hi : i % 6 = 5) (hmin : i ≤ n.minFac) (hfuel : n < i + 6 * fuel) :
    trialLoop fuel n i = decide n.Prime := by
  have hn : 0 < n := by omega
  induction fuel generalizing i with
  | zero => have := Nat.minFac_le hn; omega
  | succ fuel ih =>
    rw [trialLoop_succ]
    split
    · next hle =>
      have hsq : i * i ≤ n := (Nat.le_div_iff_mul_le (by omega)).1 hle
      have hlt : i + 2 < n := by nlinarith [show 5 ≤ i by omega]
      split
      · next hdvd =>
        have : ¬ n.Prime := hdvd.elim (not_prime_of_mod_eq_zero (by omega) (by omega))
          (not_prime_of_mod_eq_zero (by omega) hlt)
        simp [this]
      · next hndvd =>
        have hmod := minFac_mod_six h2 h3
        have hne : ∀ d, n % d ≠ 0 → n.minFac ≠ d := fun d hd h =>
          hd (h ▸ Nat.mod_eq_zero_of_dvd n.minFac_dvd)
        have h₀ := hne i (fun h => hndvd (.inl h))
        have h₂ := hne (i + 2) (fun h => hndvd (.inr h))
        exact ih (i + 6) (by omega) (by omega) (by omega)
    · next hgt =>
      have hsq : n < i * i := by
        by_contra h
        exact hgt ((Nat.le_div_iff_mul_le (by omega)).2 (not_lt.1 h))
      have : n.Prime := by
        by_contra h
        have := Nat.minFac_sq_le_self hn h
        nlinarith
      simp [this]

/-- The tester decides primality of every integer; below 2 there is no prime (41_isprime.md R102). -/
theorem isPrime_eq_decide (n : ℤ) : isPrime n = decide n.toNat.Prime := by
  rcases le_or_gt 0 n with hnn | hneg
  · lift n to ℕ using hnn with m
    simp only [isPrime, Int.toNat_natCast]
    norm_cast
    split
    · next h => interval_cases m <;> decide
    · next h₁ =>
      split
      · next h => interval_cases m <;> decide
      · next h₃ =>
        split
        · next h =>
          have : ¬ m.Prime := h.elim (not_prime_of_mod_eq_zero (by omega) (by omega))
            (not_prime_of_mod_eq_zero (by omega) (by omega))
          simp [this]
        · next h =>
          push Not at h
          have hmod := minFac_mod_six h.1 h.2
          have hone : m.minFac ≠ 1 := by rw [Ne, Nat.minFac_eq_one_iff]; omega
          exact trialLoop_eq_decide_prime m m 5 h.1 h.2 rfl (by omega) (by omega)
  · simp [isPrime, show n ≤ 1 by omega, Int.toNat_of_nonpos hneg.le, Nat.not_prime_zero]

end Sys2Proof.Machine
end

/-! The Euclidean loop of 42_modinv.md: what it keeps, why no check fires, what modInv answers. -/

section
namespace Sys2Proof.Machine

/-- What R111's loop keeps when it inverts a modulo m > 1: nonnegative remainders with the gcd of a
and m, coefficients of opposite signs whose products with the remainders sum to m, both congruences
modulo m, and coefficients below m as long as a remainder is left. -/
structure EuclidInv (a m r0 r1 s0 s1 : ℤ) : Prop where
  r0_nonneg : 0 ≤ r0
  r1_nonneg : 0 ≤ r1
  gcd_eq : Int.gcd r0 r1 = Int.gcd a m
  signs : s0 * s1 ≤ 0
  sum_eq : r0 * |s1| + r1 * |s0| = m
  s0_lt : |s0| < m
  s1_lt : r1 ≠ 0 → |s1| < m
  dvd0 : m ∣ a * s0 - r0
  dvd1 : m ∣ a * s1 - r1

/-- A value of absolute value at most INT64_MAX fits. -/
theorem fits_of_abs_le {v m : ℤ} (h : |v| ≤ m) (hm : m ≤ int64Max) : Fits v := by
  have := abs_le.1 h
  constructor <;> simp only [int64Min, int64Max] at * <;> omega

/-- The loop starts with the invariant. -/
theorem EuclidInv.init {a m : ℤ} (ha : 0 ≤ a) (hm : 1 < m) : EuclidInv a m a m 1 0 where
  r0_nonneg := ha
  r1_nonneg := by omega
  gcd_eq := rfl
  signs := by simp
  sum_eq := by simp
  s0_lt := by simpa using hm
  s1_lt := fun _ => by simpa using (by omega : 0 < m)
  dvd0 := by simp
  dvd1 := by simp

/-- With opposite signs and a quotient q ≥ 0 the coefficient of the next pass grows in absolute value,
with no cancellation. -/
theorem abs_sub_mul_of_opposite {s0 s1 q : ℤ} (h : s0 * s1 ≤ 0) (hq : 0 ≤ q) :
    |s0 - q * s1| = |s0| + q * |s1| := by
  rcases mul_nonpos_iff.1 h with ⟨h₀, h₁⟩ | ⟨h₀, h₁⟩
  · have := mul_nonneg hq (neg_nonneg.2 h₁)
    rw [abs_of_nonneg h₀, abs_of_nonpos h₁, abs_of_nonneg] <;> linarith
  · have := mul_nonneg hq h₁
    rw [abs_of_nonpos h₀, abs_of_nonneg h₁, abs_of_nonpos] <;> linarith

/-- The next remainder of the loop is r0 mod r1. -/
theorem sub_div_mul_eq_emod (r0 r1 : ℤ) : r0 - r0 / r1 * r1 = r0 % r1 := by
  have := Int.emod_add_mul_ediv r0 r1
  linarith

section
variable {a m r0 r1 s0 s1 : ℤ} (h : EuclidInv a m r0 r1 s0 s1)
include h

/-- The sum of products stays m: the next coefficient grows by what the remainder lost. -/
theorem EuclidInv.sum_step : r1 * |s0 - r0 / r1 * s1| + r0 % r1 * |s1| = m := by
  rw [abs_sub_mul_of_opposite h.signs (Int.ediv_nonneg h.r0_nonneg h.r1_nonneg),
    ← sub_div_mul_eq_emod, ← h.sum_eq]
  ring

/-- A pass of the loop keeps the invariant. -/
theorem EuclidInv.step (hr : r1 ≠ 0) :
    EuclidInv a m r1 (r0 % r1) s1 (s0 - r0 / r1 * s1) where
  r0_nonneg := h.r1_nonneg
  r1_nonneg := Int.emod_nonneg _ hr
  gcd_eq := by rw [Int.gcd_comm, Int.gcd_emod, h.gcd_eq]
  signs := by
    have := mul_nonneg (Int.ediv_nonneg h.r0_nonneg h.r1_nonneg) (mul_self_nonneg s1)
    linarith [h.signs]
  sum_eq := h.sum_step
  s0_lt := h.s1_lt hr
  s1_lt hne := by
    have hpos := lt_of_le_of_ne (Int.emod_nonneg r0 hr) hne.symm
    have hlt := Int.emod_lt_of_pos r0 (lt_of_le_of_ne h.r1_nonneg hr.symm)
    have hs := h.s1_lt hr
    have hdouble := mul_le_mul_of_nonneg_right (show 2 ≤ r1 by omega)
      (abs_nonneg (s0 - r0 / r1 * s1))
    linarith [h.sum_step, mul_nonneg hpos.le (abs_nonneg s1), abs_nonneg s1]
  dvd0 := h.dvd1
  dvd1 := by
    have heq : a * (s0 - r0 / r1 * s1) - r0 % r1 = a * s0 - r0 - r0 / r1 * (a * s1 - r1) := by
      rw [← sub_div_mul_eq_emod]
      ring
    exact heq ▸ dvd_sub h.dvd0 (h.dvd1.mul_left _)

/-- The coefficient of the next pass is at most m. -/
theorem EuclidInv.coeff_le (hr : r1 ≠ 0) : |s0 - r0 / r1 * s1| ≤ m := by
  have hone : 1 ≤ r1 := lt_of_le_of_ne h.r1_nonneg hr.symm
  have hle := le_mul_of_one_le_left (abs_nonneg (s0 - r0 / r1 * s1)) hone
  linarith [h.sum_step, mul_nonneg (Int.emod_nonneg r0 hr) (abs_nonneg s1)]

/-- No check of a pass fires, so the loop goes on with the next remainder and coefficient
(42_modinv.md R115). -/
theorem EuclidInv.modInvLoop_succ (hr : r1 ≠ 0) (h0 : r0 ≤ int64Max) (hm : m ≤ int64Max)
    (fuel : ℕ) :
    modInvLoop (fuel + 1) r0 r1 s0 s1 =
      modInvLoop fuel r1 (r0 % r1) s1 (s0 - r0 / r1 * s1) := by
  have hq : 0 ≤ r0 / r1 := Int.ediv_nonneg h.r0_nonneg h.r1_nonneg
  have hrem := Int.emod_nonneg r0 hr
  have hprod : r0 / r1 * r1 = r0 - r0 % r1 := by rw [← sub_div_mul_eq_emod]; ring
  have hprod_nonneg := mul_nonneg hq h.r1_nonneg
  have hs2 := h.coeff_le hr
  have hqs : |r0 / r1 * s1| ≤ m := by
    rw [abs_mul, abs_of_nonneg hq]
    rw [abs_sub_mul_of_opposite h.signs hq] at hs2
    linarith [abs_nonneg s0]
  have hfit₁ : Fits (r0 / r1 * r1) := fits_of_abs_le (by rw [abs_of_nonneg hprod_nonneg]; omega) h0
  have hfit₂ : Fits (r0 % r1) := fits_of_abs_le (by rw [abs_of_nonneg hrem]; omega) h0
  simp [modInvLoop, hr, bind, Except.bind, chk_of_fits hfit₁, chk_of_fits hfit₂,
    chk_of_fits (fits_of_abs_le hqs hm), chk_of_fits (fits_of_abs_le hs2 hm), sub_div_mul_eq_emod]

end

/-- The loop ends with the gcd and a coefficient that gives it modulo m (42_modinv.md R111). -/
theorem EuclidInv.modInvLoop_eq {a m r0 r1 s0 s1 : ℤ} {fuel : ℕ} (h : EuclidInv a m r0 r1 s0 s1)
    (h0 : r0 ≤ int64Max) (h1 : r1 ≤ int64Max) (hm : m ≤ int64Max) (hfuel : r1 < fuel) :
    ∃ x, modInvLoop fuel r0 r1 s0 s1 = .ok (Int.gcd a m, x) ∧ |x| < m ∧ m ∣ a * x - Int.gcd a m := by
  induction fuel generalizing r0 r1 s0 s1 with
  | zero => have := h.r1_nonneg; omega
  | succ fuel ih =>
    by_cases hr : r1 = 0
    · subst hr
      have hgcd : (Int.gcd a m : ℤ) = r0 := by
        rw [← h.gcd_eq, Int.gcd_zero_right, Int.natAbs_of_nonneg h.r0_nonneg]
      exact ⟨s0, by simp [modInvLoop, hgcd], h.s0_lt, hgcd ▸ h.dvd0⟩
    · rw [h.modInvLoop_succ hr h0 hm]
      have hlt := Int.emod_lt_of_pos r0 (lt_of_le_of_ne h.r1_nonneg (Ne.symm hr))
      exact ih (h.step hr) h1 (by omega) (by omega)

/-- A product that is 1 up to a multiple of m > 1 has the remainder 1. -/
theorem mul_emod_eq_one_of_dvd {a m x : ℤ} (hm : 1 < m) (h : m ∣ a * x - 1) : a * x % m = 1 := by
  have hmod : 1 ≡ a * x [ZMOD m] := Int.modEq_iff_dvd.2 h
  exact Eq.trans hmod.symm (Int.emod_eq_of_lt one_pos.le hm)

/-- What modInv answers for a modulus above 1 (42_modinv.md R112, R114, R115): an inverse in [0, m) of
operands that are coprime, NoInverse for all others. -/
theorem modInv_cases {a m : ℤ} (ha : 0 ≤ a) (ha' : a ≤ int64Max) (hm : 1 < m) (hm' : m ≤ int64Max) :
    (Int.gcd a m = 1 ∧ ∃ x, modInv a m = .ok x ∧ 0 ≤ x ∧ x < m ∧ a * x % m = 1) ∨
      (Int.gcd a m ≠ 1 ∧ modInv a m = .error .noInverse) := by
  obtain ⟨x, hloop, hlt, hdvd⟩ := (EuclidInv.init ha hm).modInvLoop_eq (fuel := m.toNat + 1)
    ha' hm' hm' (by omega)
  obtain ⟨hlo, hhi⟩ := abs_lt.1 hlt
  have hdef : modInv a m = if (Int.gcd a m : ℤ) ≠ 1 then .error .noInverse
      else if x < 0 then chk (x + m) else .ok x := by
    simp only [modInv, hloop, bind, Except.bind]
    simp [not_le.2 (by omega : 0 < m), not_lt.2 ha, hm.ne']
  by_cases hg : Int.gcd a m = 1
  · rw [hg, Nat.cast_one] at hdvd
    refine .inl ⟨hg, ?_⟩
    by_cases hx : x < 0
    · refine ⟨x + m, ?_, by omega, by omega, ?_⟩
      · rw [hdef, chk_of_fits (fits_of_abs_le (m := m) (by rw [abs_of_nonneg] <;> omega) hm')]
        simp [hg, hx]
      · rw [mul_add, Int.add_mul_emod_self_right]
        exact mul_emod_eq_one_of_dvd hm hdvd
    · exact ⟨x, by simp [hdef, hg, hx], by omega, hhi, mul_emod_eq_one_of_dvd hm hdvd⟩
  · exact .inr ⟨hg, by simp [hdef, hg]⟩

end Sys2Proof.Machine
end

/-! What KEYGEN computes is a key (44_keygen.md). -/

section
namespace Sys2Proof.Machine

/-- What the well-formedness check of the parameters says (00_scope.md R6, R7). -/
theorem Params.wellFormed_iff {P : Params} : P.wellFormed = true ↔
    0 ≤ P.primeLo ∧ P.primeLo < P.primeHi ∧ P.primeHi ≤ int64Max ∧ 1 ≤ P.ePub ∧
      P.ePub ≤ int64Max := by
  simp [Params.wellFormed, and_assoc]

/-- A sampled number is a prime of the range (40_primegen.md R90). -/
theorem samplePrime_prime {P : Params} {ws rest : List Word} {p : ℤ} (hP : P.wellFormed = true)
    (h : samplePrime P ws = some (p, rest)) :
    ∃ n : ℕ, p = n ∧ n.Prime ∧ P.primeLo ≤ n ∧ (n : ℤ) < P.primeHi := by
  obtain ⟨pre, w, -, -, hc, hp⟩ := samplePrime_eq_some_iff.1 h
  obtain ⟨hlo, hhi⟩ := candidateOf_range hc
  lift p to ℕ using (Params.wellFormed_iff.1 hP).1.trans hlo
  exact ⟨p, rfl, by simpa [isPrime_eq_decide] using hp, hlo, hhi⟩

/-- The totient of two distinct primes exceeds 1: the modulus of KEYGEN's inverse is never 1. -/
theorem one_lt_totient {p q : ℕ} (hp : p.Prime) (hq : q.Prime) (hne : p ≠ q) :
    1 < ((p : ℤ) - 1) * (q - 1) := by
  have hp2 := hp.two_le
  have hq2 := hq.two_le
  rcases hne.lt_or_gt with h | h <;> nlinarith

/-- A computation in two parts succeeds exactly when both do. -/
theorem except_bind_eq_ok {α β : Type} {x : Except Exc α} {f : α → Except Exc β} {r : β} :
    x >>= f = .ok r ↔ ∃ a, x = .ok a ∧ f a = .ok r := by
  cases x <;> simp [bind, Except.bind]

/-- A key of two numbers with a totient above 1 is made of the public exponent, their product and an
inverse modulo the totient; product and totient fit (44_keygen.md R138). -/
theorem keyFrom_eq_ok {P : Params} {p q : ℤ} {k : Key} (hP : P.wellFormed = true)
    (hphi : 1 < (p - 1) * (q - 1)) (h : keyFrom P p q = .ok k) :
    ∃ d, k = ⟨P.ePub, p * q, d⟩ ∧ Fits (p * q) ∧ Fits ((p - 1) * (q - 1)) ∧
      0 ≤ d ∧ d < (p - 1) * (q - 1) ∧ P.ePub * d % ((p - 1) * (q - 1)) = 1 := by
  obtain ⟨-, -, -, he, he'⟩ := Params.wellFormed_iff.1 hP
  by_cases hpq : p = q
  · simp [keyFrom, hpq] at h
  · rw [keyFrom, if_neg hpq, except_bind_eq_ok] at h
    obtain ⟨n, hn, h⟩ := h
    obtain ⟨phi, hchk, h⟩ := except_bind_eq_ok.1 h
    obtain ⟨hnfit, rfl⟩ := chk_eq_ok_iff.1 hn
    obtain ⟨hfit, rfl⟩ := chk_eq_ok_iff.1 hchk
    obtain ⟨-, d, hd, hd0, hdlt, hmul⟩ | ⟨-, herr⟩ := modInv_cases (by omega) he' hphi hfit.2
    · rw [hd] at h
      exact ⟨d, (Except.ok.inj h).symm, hnfit, hfit, hd0, hdlt, hmul⟩
    · simp [herr] at h

/-- What keyFrom makes of two sampled primes is a key, as read back from the registers it is written
to (44_keygen.md R142). -/
theorem isKey_of_samplePair {P : Params} {ws rest : List Word} {p q : ℤ} {k : Key}
    (hP : P.wellFormed = true) (hs : samplePair P ws = some (p, q, rest))
    (hk : keyFrom P p q = .ok k) :
    IsKey P (BitVec.ofInt 64 k.e).toInt (BitVec.ofInt 64 k.n).toInt (BitVec.ofInt 64 k.d).toInt := by
  obtain ⟨mid, hs₁, hs₂⟩ := samplePair_eq_some_iff.1 hs
  obtain ⟨p, rfl, hp, hplo, hphi⟩ := samplePrime_prime hP hs₁
  obtain ⟨q, rfl, hq, hqlo, hqhi⟩ := samplePrime_prime hP hs₂
  have hpq : p ≠ q := by
    rintro rfl
    simp [keyFrom] at hk
  obtain ⟨d, rfl, hnfit, hphifit, hd0, hdlt, hmul⟩ :=
    keyFrom_eq_ok hP (one_lt_totient hp hq hpq) hk
  obtain ⟨-, -, -, he, he'⟩ := Params.wellFormed_iff.1 hP
  have hefit : Fits P.ePub := fits_of_abs_le (by rw [abs_of_nonneg (by omega)]) he'
  have hdfit : Fits d := fits_of_abs_le (by rw [abs_of_nonneg hd0]; exact hdlt.le) hphifit.2
  rw [toInt_ofInt_of_fits hefit, toInt_ofInt_of_fits hnfit, toInt_ofInt_of_fits hdfit]
  exact ⟨p, q, hp, hq, hpq, hplo, hphi, hqlo, hqhi, rfl, rfl, hd0, hdlt, hmul⟩

end Sys2Proof.Machine
end

/-! State (10_state.md): what a command, and a step of the system, can do to the registers. -/

section
namespace Sys2Proof.Machine

/-! ### What a command can do -/

@[simp] theorem consume_self (s : State) : consume s.rngWords s = s := by
  simp [consume]

/-- What one execution of the command i can make of s: it waits for a word, raises an exception, or
writes its result to RES or, where i is KEYGEN, a key to the key registers. The words it drew are
consumed (30_encoding.md R74, 60_exceptions.md R190, 40_primegen.md R96). -/
inductive Completion (i : Instr) (s : State) : State → Prop
  | waits (hi : i = .primegen ∨ i = .keygen) : Completion i s (awaitWord s)
  | raises (x : Exc) {rest : List Word} (hrest : rest <:+ s.rngWords) :
      Completion i s (raise x (consume rest s))
  | writesRes (v : ℤ) {rest : List Word} (hi : i ≠ .keygen) (hrest : rest <:+ s.rngWords) :
      Completion i s (succeed (writeRes v (consume rest s)))
  | writesKey {p q : ℤ} {rest : List Word} {k : Key} (hi : i = .keygen) (hv : s.keyValid = false)
      (hdraw : samplePair Config.params s.rngWords = some (p, q, rest))
      (hkey : keyFrom Config.params p q = .ok k) :
      Completion i s (succeed (writeKey k (consume rest s)))

/-- The sampler leaves the words after those it read (40_primegen.md R96). -/
theorem samplePrime_suffix {P : Params} {ws rest : List Word} {p : ℤ}
    (h : samplePrime P ws = some (p, rest)) : rest <:+ ws := by
  obtain ⟨pre, w, rfl, -⟩ := samplePrime_eq_some_iff.1 h
  exact ⟨pre ++ [w], by simp⟩

theorem samplePair_suffix {P : Params} {ws rest : List Word} {p q : ℤ}
    (h : samplePair P ws = some (p, q, rest)) : rest <:+ ws := by
  obtain ⟨mid, h₁, h₂⟩ := samplePair_eq_some_iff.1 h
  exact (samplePrime_suffix h₂).trans (samplePrime_suffix h₁)

/-- A command that hands a value or an exception to `finishRes` has completed in one of these ways. -/
theorem Completion.of_finishRes {i : Instr} {s : State} (hi : i ≠ .keygen) (r : Except Exc ℤ)
    {rest : List Word} (hrest : rest <:+ s.rngWords) :
    Completion i s (finishRes r (consume rest s)) := by
  cases r with
  | ok v => exact .writesRes v hi hrest
  | error x => exact .raises x hrest

theorem primegen_completion (s : State) : Completion .primegen s (primegenWith Config.params s) := by
  unfold primegenWith
  split
  · exact .waits (.inl rfl)
  · next h => exact .of_finishRes (by decide) _ (samplePrime_suffix h)

theorem keygen_completion (s : State) : Completion .keygen s (keygenWith Config.params s) := by
  unfold keygenWith
  split
  · simpa using Completion.raises (i := .keygen) (s := s) .keyLocked (List.suffix_refl _)
  · next hv =>
    split
    · exact .waits (.inr rfl)
    · next hdraw =>
      split
      · exact .raises _ (samplePair_suffix hdraw)
      · next hkey => exact .writesKey rfl (by simpa using hv) hdraw hkey

/-- Everything a command can do. -/
theorem exec_completion {i : Instr} {s t : State} (h : exec i s = .next t) : Completion i s t := by
  by_cases hp : i = .primegen
  · subst hp
    obtain rfl : primegenWith Config.params s = t := by injection h
    exact primegen_completion s
  · by_cases hk : i = .keygen
    · subst hk
      obtain rfl : keygenWith Config.params s = t := by injection h
      exact keygen_completion s
    · obtain ⟨r, hr⟩ := exec_eq_finishRes hp hk s
      obtain rfl : finishRes r s = t := by rw [hr] at h; injection h
      simpa using Completion.of_finishRes hk r (List.suffix_refl s.rngWords)

/-- Settles O47: none of the four ways a command completes writes these. -/
theorem commandsLeaveOperands : Obligations.CommandsLeaveOperands := by
  intro i s t h
  cases exec_completion h <;> simp

/-- Settles O48: the one completion that writes the key is KEYGEN's, and the one that writes RES is
not. -/
theorem onlyKeygenWritesTheKey : Obligations.OnlyKeygenWritesTheKey := by
  intro i s t h
  cases exec_completion h with
  | waits => simp
  | raises => simp
  | writesRes v hi => simp [hi]
  | writesKey hi => simp [hi]

/-! ### The key registers -/

/-- The registers of the key: KEYVALID, KE, KN and KD (10_state.md R34). -/
def State.keyRegs (s : State) : Bool × Word × Word × Word := (s.keyValid, s.ke, s.kn, s.kd)

/-- The invariant of the key registers depends on nothing else. -/
theorem State.keyInv_congr {s t : State} (h : t.keyRegs = s.keyRegs) (hs : s.KeyInv) : t.KeyInv := by
  simp only [State.keyRegs, Prod.mk.injEq] at h
  obtain ⟨hv, he, hn, hd⟩ := h
  simpa only [State.KeyInv, keyE, keyN, keyD, hv, he, hn, hd] using hs

/-- A command leaves the key registers, or is a KEYGEN that found none and writes a key. -/
theorem Completion.keyRegs_cases {i : Instr} {s t : State} (h : Completion i s t) :
    t.keyRegs = s.keyRegs ∨
      s.keyValid = false ∧ t.keyValid = true ∧ IsKey Config.params (keyE t) (keyN t) (keyD t) := by
  cases h with
  | waits => exact .inl rfl
  | raises => exact .inl rfl
  | writesRes => exact .inl rfl
  | writesKey hi hv hdraw hkey =>
    exact .inr ⟨hv, rfl, isKey_of_samplePair (P := Config.params) (by decide) hdraw hkey⟩

/-- Every exception's code is one of the eight (60_exceptions.md R180). -/
theorem Exc.code_le (x : Exc) : x.code.toNat ≤ 8 := by
  cases x <;> decide

/-- A command ends with one of the nine codes, or has not ended. -/
theorem Completion.err_cases {i : Instr} {s t : State} (h : Completion i s t) :
    t.err = s.err ∨ t.err.toNat ≤ 8 := by
  cases h with
  | waits => exact .inl rfl
  | raises x => exact .inr x.code_le
  | writesRes => exact .inr (by simp [errNone])
  | writesKey => exact .inr (by simp [errNone])

/-! ### What a step does to the key and to ERR -/

/-- A host write reaches no register of the key and no error code (20_memory.md R54, R56). -/
theorem writeReg_keyRegs_err (r : Reg) (v : Word) (s : State) :
    (writeReg r v s).keyRegs = s.keyRegs ∧ (writeReg r v s).err = s.err := by
  cases hb : s.busy with
  | true => rw [writeReg_busy hb]; exact ⟨rfl, rfl⟩
  | false => cases r <;> simp [writeReg, hb, accept, State.keyRegs]

theorem hostRead_keyRegs_err (base addr size : Nat) (s : State) :
    (hostRead base addr size s).keyRegs = s.keyRegs ∧ (hostRead base addr size s).err = s.err := by
  obtain ⟨r, hr⟩ := hostRead_eq base addr size s
  rw [hr]
  exact ⟨rfl, rfl⟩

theorem hostWrite_keyRegs_err (base addr size : Nat) (v : Word) (s : State) :
    (hostWrite base addr size v s).keyRegs = s.keyRegs ∧
      (hostWrite base addr size v s).err = s.err := by
  rcases hostWrite_eq base addr size v s with ⟨r, hr⟩ | hr
  · rw [hr]
    exact writeReg_keyRegs_err r v s
  · rw [hr]
    exact ⟨rfl, rfl⟩

/-- The engine's step stands, raises Illegal, or executes a command (70_reset_and_hazards.md R219). -/
theorem engineStep_result {s t : State} (h : engineStep s = .next t) :
    t = s ∨ t = raise .illegal s ∨ ∃ i, Completion i s t := by
  rcases engineStep_cases s with ⟨-, hs⟩ | ⟨-, i, -, hs⟩ | ⟨-, e, -, hs⟩
  · exact .inl (Host.Outcome.next.inj (h.symm.trans hs))
  · exact .inr (.inr ⟨i, exec_completion (hs.symm.trans h)⟩)
  · exact .inr (.inl (Host.Outcome.next.inj (h.symm.trans hs)))

/-- Everything a step can do to ERR, and to the key registers: leave them, reset them, or, where no key
was valid, write a key. -/
theorem step_err_keyRegs_cases {s t : State} (h : step s = .next t) :
    (t.err = s.err ∨ t.err.toNat ≤ 8) ∧
      (t.keyRegs = s.keyRegs ∨
        (∃ drawn rest, s.host = .reset drawn :: rest ∧ t.keyRegs = State.reset.keyRegs) ∨
        s.keyValid = false ∧ t.keyValid = true ∧
          IsKey Config.params (keyE t) (keyN t) (keyD t)) := by
  obtain ⟨h', he⟩ | ⟨h', addr, size, rfl⟩ | ⟨h', addr, size, v, rfl⟩ | ⟨h', drawn, hh, rfl⟩ :=
    step_cases h
  · rcases engineStep_result he with rfl | rfl | ⟨i, hc⟩
    · exact ⟨.inl rfl, .inl rfl⟩
    · exact ⟨.inr (Exc.code_le .illegal), .inl rfl⟩
    · exact ⟨hc.err_cases, hc.keyRegs_cases.imp_right .inr⟩
  · obtain ⟨hkey, herr⟩ := hostRead_keyRegs_err Config.base addr size (setHost h' s)
    exact ⟨.inl herr, .inl hkey⟩
  · obtain ⟨hkey, herr⟩ := hostWrite_keyRegs_err Config.base addr size v (setHost h' s)
    exact ⟨.inl herr, .inl hkey⟩
  · exact ⟨.inr (Nat.zero_le 8), .inr (.inl ⟨drawn, h', hh, rfl⟩)⟩

/-- Settles O52: the first alternative of the key invariant, and the code 0. -/
theorem resetHasInv : Obligations.ResetHasInv :=
  ⟨.inl ⟨rfl, rfl, rfl, rfl⟩, Nat.zero_le 8⟩

/-- Settles O53: a step that writes a key found KEYVALID = 0, and but for reset no other touches the key
registers. -/
theorem keyIsImmutable : Obligations.KeyIsImmutable := by
  intro s t hv hreset h
  have hkey : t.keyRegs = s.keyRegs := by
    obtain ⟨-, hkey | ⟨drawn, rest, hh, -⟩ | ⟨hv', -⟩⟩ := step_err_keyRegs_cases h
    · exact hkey
    · exact absurd hh (hreset drawn rest)
    · exact absurd hv (by simp [hv'])
  simpa [State.keyRegs, hv] using hkey

/-- Settles O51: the key registers stand, are those of the reset state, or hold a key KEYGEN wrote,
which has two distinct primes behind it because the tester decides primality, and inverse exponents
because modInv inverts. -/
theorem stepKeepsInv : Obligations.StepKeepsInv := by
  rintro s t ⟨hk, he⟩ h
  obtain ⟨herr, hkey⟩ := step_err_keyRegs_cases h
  constructor
  · obtain hkey | ⟨-, -, -, hkey⟩ | ⟨-, hnew⟩ := hkey
    · exact State.keyInv_congr hkey hk
    · exact State.keyInv_congr hkey resetHasInv.1
    · exact .inr hnew
  · rcases herr with herr | herr
    · simpa [State.ErrInv, herr] using he
    · exact herr

end Sys2Proof.Machine
end

/-! State (10_state.md): the idle engine, command accept, and the layout of STATUS. -/

section
namespace Sys2Proof.Machine

/-- With BUSY = 0 the engine's step is disabled (10_state.md R27; log 11). -/
theorem engineStep_idle {s : State} (hb : s.busy = false) : engineStep s = .next s := by
  simp [engineStep, hb]

/-- Settles O6: the step is the engine's, which BUSY = 0 disables. -/
theorem idleEngineStands : Obligations.IdleEngineStands := by
  intro s hb
  refine ⟨fun hh => ?_, fun rest hh => ?_⟩
  · simp only [step, systemStep, hh]
    exact engineStep_idle hb
  · simp only [step, systemStep, hh]
    exact engineStep_idle hb

/-- The host's write to a register's own address is admitted, and answered OK (20_memory.md R54). -/
theorem step_write {s : State} {r : Reg} {v : Word} {rest : List HostEvent}
    (h : s.host = .write (Config.base + r.offset) 8 v :: rest) :
    step s = .next (reply .done (writeReg r v (setHost rest s))) := by
  simp only [step, systemStep, h, hostWrite, windowReg_base_offset]

/-- The host's read at a register's own address is answered with its 64 bits (20_memory.md R53). -/
theorem step_read {s : State} {r : Reg} {rest : List HostEvent}
    (h : s.host = .read (Config.base + r.offset) 8 :: rest) :
    step s = .next (reply (.data (readReg r s)) (setHost rest s)) := by
  simp only [step, systemStep, h, hostRead, windowReg_base_offset]
  cases r <;> rfl

/-- A write to CMD while BUSY = 0 is command accept (10_state.md R25). -/
theorem writeReg_cmd_idle {s : State} (w : Word) (hb : s.busy = false) :
    writeReg .cmd w s = accept w s := by
  simp [writeReg, hb]

/-- Settles O7: a write to CMD is command accept when idle, and no write has an effect when busy. -/
theorem commandAccept : Obligations.CommandAccept := by
  intro s w rest
  refine ⟨fun hh hb => ?_, fun hh hb => ?_, fun hh => step_read (r := .cmd) hh⟩
  · rw [step_write (r := .cmd) hh, writeReg_cmd_idle w (by simpa using hb)]
    rfl
  · rw [step_write (r := .cmd) hh, writeReg_busy (by simpa using hb)]
    rfl

/-- Where each bit of STATUS comes from (10_state.md R26). -/
theorem status_getLsbD (s : State) (k : ℕ) :
    s.status.getLsbD k = if k = 0 then s.busy else if k = 1 then s.keyValid
      else if 8 ≤ k ∧ k < 16 then s.err.getLsbD (k - 8) else false := by
  simp only [State.status, BitVec.getLsbD_append, BitVec.getLsbD_ofBool, BitVec.getLsbD_zero]
  grind

/-- The reserved bits of STATUS (10_state.md R30). -/
theorem status_getLsbD_reserved (s : State) {k : ℕ} (hk : 2 ≤ k ∧ k < 8 ∨ 16 ≤ k) :
    s.status.getLsbD k = false := by
  rw [status_getLsbD, if_neg (by omega), if_neg (by omega), if_neg (by omega)]

/-- Settles O14: each field and each reserved bit is read off the layout. -/
theorem statusLayout : Obligations.StatusLayout := by
  intro s
  refine ⟨?_, ?_, status_getLsbD s 0, status_getLsbD s 1, ?_⟩
  · ext k hk
    rw [BitVec.getElem_extractLsb', status_getLsbD_reserved s (by omega)]
    simp
  · ext k hk
    rw [BitVec.getElem_extractLsb', status_getLsbD_reserved s (by omega)]
    simp
  · ext k hk
    rw [BitVec.getElem_extractLsb', status_getLsbD, if_neg (by omega), if_neg (by omega),
      if_pos (by omega), Nat.add_sub_cancel_left, BitVec.getLsbD_eq_getElem]

end Sys2Proof.Machine
end

/-! The host port (20_memory.md): what an admitted write does, what an admitted read answers, and the
refusal of every other access. -/

section
namespace Sys2Proof.Machine

/-- The registers of results and of the key, and STATUS, ignore a host write (20_memory.md R56). -/
theorem writeReg_readOnly {r : Reg} (hr : r ∈ [.status, .res, .ke, .kn, .kd]) (v : Word) (s : State) :
    writeReg r v s = s := by
  simp only [List.mem_cons, List.not_mem_nil, or_false] at hr
  rcases hr with rfl | rfl | rfl | rfl | rfl <;> rfl

/-! While BUSY = 0 an operand register takes all 64 bits of the word written (20_memory.md R54). -/

theorem writeReg_opa_idle {s : State} (v : Word) (hb : s.busy = false) :
    writeReg .opa v s = { s with opa := v } := by
  simp [writeReg, hb]

theorem writeReg_opb_idle {s : State} (v : Word) (hb : s.busy = false) :
    writeReg .opb v s = { s with opb := v } := by
  simp [writeReg, hb]

theorem writeReg_opm_idle {s : State} (v : Word) (hb : s.busy = false) :
    writeReg .opm v s = { s with opm := v } := by
  simp [writeReg, hb]

/-- A write to a read-only register is answered OK and has no effect (20_memory.md R56). -/
theorem step_write_readOnly {s : State} {r : Reg} {v : Word} {rest : List HostEvent}
    (hr : r ∈ [.status, .res, .ke, .kn, .kd])
    (h : s.host = .write (Config.base + r.offset) 8 v :: rest) :
    step s = .next { s with host := rest, replies := .done :: s.replies } := by
  rw [step_write h, writeReg_readOnly hr]
  rfl

/-- While BUSY = 1 a write to any register is answered OK and has no effect (20_memory.md R54). -/
theorem step_write_busy {s : State} {r : Reg} {v : Word} {rest : List HostEvent}
    (hb : s.busy = true) (h : s.host = .write (Config.base + r.offset) 8 v :: rest) :
    step s = .next { s with host := rest, replies := .done :: s.replies } := by
  rw [step_write h, writeReg_busy (by simpa using hb)]
  rfl

/-- Settles O8: the registers at the offsets named are read-only, busy or idle, and with BUSY = 0 the
write has the effect of its own register. -/
theorem admittedWrites : Obligations.AdmittedWrites := by
  intro s v rest
  refine ⟨fun off hoff hh => ?_, fun off hoff hh hb => ?_, fun hh hb => ?_, fun hh hb => ?_,
    fun hh hb => ?_, fun hh hb => ?_⟩
  · obtain ⟨r, hr, rfl⟩ :=
      (List.mem_map (f := Reg.offset) (l := [.status, .res, .ke, .kn, .kd])).1 hoff
    exact step_write_readOnly hr hh
  · obtain ⟨r, -, rfl⟩ := (List.mem_map (f := Reg.offset) (l := [.cmd, .opa, .opb, .opm])).1 hoff
    exact step_write_busy hb hh
  · rw [step_write (r := .cmd) hh, writeReg_cmd_idle v (by simpa using hb)]
    rfl
  · rw [step_write (r := .opa) hh, writeReg_opa_idle v (by simpa using hb)]
    rfl
  · rw [step_write (r := .opb) hh, writeReg_opb_idle v (by simpa using hb)]
    rfl
  · rw [step_write (r := .opm) hh, writeReg_opm_idle v (by simpa using hb)]
    rfl

/-- Settles O9: the nine pairs are each register's offset and the bits a read of it returns. -/
theorem admittedReads : Obligations.AdmittedReads := by
  intro s rest off v hmem hh
  obtain ⟨r, -, hr⟩ := (List.mem_map (f := fun r => (Reg.offset r, readReg r s))
    (l := [.cmd, .status, .opa, .opb, .opm, .res, .ke, .kn, .kd])).1 hmem
  obtain ⟨rfl, rfl⟩ := Prod.mk.inj hr
  exact step_read hh

/-- Settles O10: no register of the window answers such an access. -/
theorem refusedAccesses : Obligations.RefusedAccesses := by
  intro s rest addr size v href
  have hnone : windowReg Config.base addr size = none := windowReg_refused href
  constructor
  · intro hh
    simp only [step, systemStep, hh, hostRead, hnone]
    rfl
  · intro hh
    simp only [step, systemStep, hh, hostWrite, hnone]
    rfl

end Sys2Proof.Machine
end

/-! Encoding (30_encoding.md): the opcode map on words and on the window's bytes. -/

section
namespace Sys2Proof

/-! ### Command words -/

/-- A word is its field ZERO above its field OPC (30_encoding.md R70). -/
theorem zeroField_append_opcField (w : Word) : zeroField w ++ opcField w = w :=
  (BitVec.extractLsb'_append_extractLsb'_eq_extractLsb' rfl).trans BitVec.extractLsb'_eq_self

@[simp] theorem zeroField_encode (i : Instr) : zeroField (encode i) = 0 :=
  BitVec.extractLsb'_append_eq_left

@[simp] theorem opcField_encode (i : Instr) : opcField (encode i) = opcOf i :=
  BitVec.extractLsb'_append_eq_right

@[simp] theorem decodeOpc_opcOf (i : Instr) : decodeOpc (opcOf i) = .ok i := by
  cases i <;> rfl

/-- The opcode map gives each command for its own OPC only (30_encoding.md R71, R74). -/
theorem decodeOpc_eq_ok_iff {c : BitVec 8} {i : Instr} : decodeOpc c = .ok i ↔ c = opcOf i := by
  constructor
  · intro h
    apply BitVec.eq_of_toNat_eq
    unfold decodeOpc at h
    split at h <;> cases h <;> assumption
  · rintro rfl
    exact decodeOpc_opcOf i

/-- A nonzero field ZERO makes a word illegal (30_encoding.md R70, R75). -/
theorem decode_of_zeroField_ne {w : Word} (h : zeroField w ≠ 0) : decode w = .error .zeroField :=
  if_pos h

theorem decode_of_zeroField_eq {w : Word} (h : zeroField w = 0) : decode w = decodeOpc (opcField w) :=
  if_neg (not_not_intro h)

/-- Each command is decoded from its own word and from no other (30_encoding.md R71, R74). -/
theorem decode_eq_ok_iff {w : Word} {i : Instr} : decode w = .ok i ↔ w = encode i := by
  constructor
  · intro h
    by_cases hz : zeroField w = 0
    · rw [decode_of_zeroField_eq hz, decodeOpc_eq_ok_iff] at h
      rw [← zeroField_append_opcField w, hz, h]
      rfl
    · rw [decode_of_zeroField_ne hz] at h
      cases h
  · rintro rfl
    rw [decode_of_zeroField_eq (zeroField_encode i), opcField_encode, decodeOpc_opcOf]

/-- The command words are 1 to 7 (30_encoding.md R71). -/
theorem exists_eq_encode_iff {w : Word} : (∃ i, w = encode i) ↔ 1 ≤ w.toNat ∧ w.toNat ≤ 7 := by
  constructor
  · rintro ⟨i, rfl⟩
    cases i <;> decide
  · rintro ⟨h1, h7⟩
    obtain ⟨k, hk⟩ : ∃ k, w.toNat = k := ⟨_, rfl⟩
    rw [hk] at h1 h7
    suffices ∃ i, (encode i).toNat = k by
      obtain ⟨i, hi⟩ := this
      exact ⟨i, BitVec.eq_of_toNat_eq (hk.trans hi.symm)⟩
    interval_cases k
    · exact ⟨.primegen, rfl⟩
    · exact ⟨.isprime, rfl⟩
    · exact ⟨.modinv, rfl⟩
    · exact ⟨.modexp, rfl⟩
    · exact ⟨.keygen, rfl⟩
    · exact ⟨.enc, rfl⟩
    · exact ⟨.dec, rfl⟩

/-! ### The bytes of a word -/

@[simp] theorem length_bytesOfWord (w : Word) : (bytesOfWord w).length = 8 := rfl

/-- The byte lanes of a word, lowest first, have its value (20_memory.md R58). -/
theorem natOfBytes_bytesOfWord (w : Word) : natOfBytes (bytesOfWord w) = w.toNat := by
  have hw : w.toNat < 2 ^ 64 := w.isLt
  simp only [bytesOfWord, List.range, List.range.loop, List.map, natOfBytes,
    BitVec.extractLsb'_toNat, Nat.shiftRight_eq_div_pow]
  omega

theorem natOfBytes_lt (bs : List Byte) : natOfBytes bs < 256 ^ bs.length := by
  induction bs with
  | nil => exact Nat.one_pos
  | cons b bs ih =>
    have hb : b.toNat < 256 := b.isLt
    rw [natOfBytes, List.length_cons, Nat.pow_succ]
    omega

/-- Byte lists of one length with one value are equal. -/
theorem eq_of_natOfBytes_eq {bs cs : List Byte} (hlen : bs.length = cs.length)
    (h : natOfBytes bs = natOfBytes cs) : bs = cs := by
  induction bs generalizing cs with
  | nil => exact (List.length_eq_zero_iff.1 hlen.symm).symm
  | cons b bs ih =>
    cases cs with
    | nil => cases hlen
    | cons c cs =>
      have hb : b.toNat < 256 := b.isLt
      have hc : c.toNat < 256 := c.isLt
      simp only [natOfBytes] at h
      have hhead : b = c := BitVec.eq_of_toNat_eq (by omega)
      have htail : bs = cs := ih (Nat.succ.inj hlen) (by omega)
      rw [hhead, htail]

theorem ofNat_natOfBytes_bytesOfWord (w : Word) :
    BitVec.ofNat 64 (natOfBytes (bytesOfWord w)) = w := by
  rw [natOfBytes_bytesOfWord, BitVec.ofNat_toNat, BitVec.setWidth_eq]

/-- Eight bytes are the byte lanes of the word of their value (20_memory.md R58). -/
theorem bytesOfWord_ofNat_natOfBytes {bs : List Byte} (hlen : bs.length = 8) :
    bytesOfWord (BitVec.ofNat 64 (natOfBytes bs)) = bs := by
  have hlt : natOfBytes bs < 2 ^ 64 := by simpa [hlen] using natOfBytes_lt bs
  refine eq_of_natOfBytes_eq ((length_bytesOfWord _).trans hlen.symm) ?_
  rw [natOfBytes_bytesOfWord, BitVec.toNat_ofNat, Nat.mod_eq_of_lt hlt]

/-! ### Commands as bytes -/

/-- The byte decoder reads the word of the first eight bytes and hands back the rest. -/
theorem decodeBytes_bytesOfWord_append (w : Word) (rest : List Byte) :
    decodeBytes (bytesOfWord w ++ rest) = (decode w).map (·, rest) := by
  have hlen : ¬ (bytesOfWord w ++ rest).length < 8 := by simp
  rw [decodeBytes, if_neg hlen, List.take_left' (length_bytesOfWord w),
    List.drop_left' (length_bytesOfWord w), ofNat_natOfBytes_bytesOfWord]
  cases decode w <;> rfl

/-- A byte list too short for a word decodes to nothing; any other is a word's bytes and a rest. -/
theorem length_lt_or_eq_bytesOfWord_append (bs : List Byte) :
    bs.length < 8 ∨ ∃ w rest, bs = bytesOfWord w ++ rest := by
  refine (Nat.lt_or_ge bs.length 8).imp_right fun hlen =>
    ⟨BitVec.ofNat 64 (natOfBytes (bs.take 8)), bs.drop 8, ?_⟩
  rw [bytesOfWord_ofNat_natOfBytes (List.length_take_of_le hlen), List.take_append_drop]

/-- A byte list decodes to a command exactly when it begins with the bytes of the command's word. -/
theorem decodeBytes_eq_ok_iff {bs rest : List Byte} {i : Instr} :
    decodeBytes bs = .ok (i, rest) ↔ bs = encodeBytes i ++ rest := by
  constructor
  · intro h
    obtain hlen | ⟨w, rest', rfl⟩ := length_lt_or_eq_bytesOfWord_append bs
    · rw [decodeBytes, if_pos hlen] at h
      cases h
    · rw [decodeBytes_bytesOfWord_append] at h
      cases hd : decode w with
      | error e => rw [hd] at h; cases h
      | ok j =>
        rw [hd] at h
        cases h
        rw [decode_eq_ok_iff.1 hd, encodeBytes]
  · rintro rfl
    rw [encodeBytes, decodeBytes_bytesOfWord_append, decode_eq_ok_iff.2 rfl]
    rfl

/-- Settles O2: the two directions of `decodeBytes_eq_ok_iff`. -/
theorem decodeEncodeAgree : Obligations.DecodeEncodeAgree :=
  ⟨fun _ _ => decodeBytes_eq_ok_iff.2 rfl, fun _ _ _ => decodeBytes_eq_ok_iff.1⟩

/-- Settles O1: only a command's own word decodes to it, and those words are 1 to 7. -/
theorem decodeIsTheOpcodeMap : Obligations.DecodeIsTheOpcodeMap := by
  refine ⟨fun w => ⟨decode_eq_ok_iff, decode_eq_ok_iff, decode_eq_ok_iff, decode_eq_ok_iff,
    decode_eq_ok_iff, decode_eq_ok_iff, decode_eq_ok_iff⟩, fun w => ⟨fun hz => ?_, ?_⟩⟩
  · exact ⟨.zeroField, decode_of_zeroField_ne hz⟩
  · simp only [decode_eq_ok_iff, exists_eq_encode_iff]

/-- Settles O3: each word written out is its command's encoding. -/
theorem commandWordsDecode : Obligations.CommandWordsDecode :=
  ⟨decode_eq_ok_iff.2 rfl, decode_eq_ok_iff.2 rfl, decode_eq_ok_iff.2 rfl, decode_eq_ok_iff.2 rfl,
    decode_eq_ok_iff.2 rfl, decode_eq_ok_iff.2 rfl, decode_eq_ok_iff.2 rfl,
    decodeBytes_eq_ok_iff.2 rfl⟩

end Sys2Proof
end

/-! Encoding (30_encoding.md R79): the host statement WAIT. -/

section
namespace Sys2Proof.Machine

/-- A WAIT that finds BUSY = 0 reads STATUS once and ends. -/
theorem step_wait_idle {s : State} {k : ℕ} {rest : List HostEvent} (hb : s.busy = false)
    (hh : s.host = .wait k :: rest) :
    step s = .next (reply (.data s.status) (setHost rest s)) := by
  rw [← pollStatus_eq]
  simp [step, systemStep, hh, hb]

/-- A WAIT with busy reads left that finds BUSY = 1 reads STATUS and goes on with one fewer. -/
theorem step_wait_busy {s : State} {k : ℕ} {rest : List HostEvent} (hb : s.busy = true)
    (hh : s.host = .wait (k + 1) :: rest) :
    step s = .next (reply (.data s.status) (setHost (.wait k :: rest) s)) := by
  rw [← pollStatus_eq]
  simp [step, systemStep, hh, hb]

/-- Settles O12: the two steps of a WAIT that read STATUS. -/
theorem waitPollsStatus : Obligations.WaitPollsStatus :=
  fun _ _ _ => ⟨fun hh hb => step_wait_idle hb hh, fun hh hb => step_wait_busy hb hh⟩

/-- A run whose first step answers goes on from there, in every machine. -/
theorem Core.run_succ_of_step {M : Host.Core} {s t : M.State} (h : M.step s = .next t) (k : ℕ) :
    M.run (k + 1) s = M.run k t := by
  rw [Host.Core.run, h]

theorem run_succ_of_step {s t : State} (h : step s = .next t) (k : ℕ) :
    Sys2Proof.core.run (k + 1) s = Sys2Proof.core.run k t :=
  Core.run_succ_of_step (M := Sys2Proof.core) h k

/-- s after n reads of STATUS, where the host's WAIT then leaves the turn to the engine (log 5). -/
def State.afterReads (n : ℕ) (rest : List HostEvent) (s : State) : State :=
  { s with host := .wait 0 :: rest,
           replies := List.replicate n (.data s.status) ++ s.replies }

/-- The n busy reads of a WAIT each record the STATUS that stands, and change nothing else. -/
theorem run_busyReads {s : State} {n : ℕ} {rest : List HostEvent} (hb : s.busy = true)
    (hh : s.host = .wait n :: rest) (m : ℕ) :
    Sys2Proof.core.run (n + m) s = Sys2Proof.core.run m (s.afterReads n rest) := by
  induction n generalizing s with
  | zero => simp [State.afterReads, ← hh]
  | succ n ih =>
    have hreads : (reply (.data s.status) (setHost (.wait n :: rest) s)).afterReads n rest =
        s.afterReads (n + 1) rest := by
      simp only [State.afterReads, List.replicate_succ', List.append_assoc]
      rfl
    rw [Nat.add_right_comm, run_succ_of_step (step_wait_busy hb hh), ← hreads]
    exact ih (s := reply _ (setHost _ s)) hb rfl

/-- With BUSY = 1 and a command's word latched, the engine's step executes the command
(70_reset_and_hazards.md R219). -/
theorem engineStep_of_decode {s : State} {i : Instr} (hb : s.busy = true)
    (hd : decode s.cmdreg = .ok i) : engineStep s = exec i s := by
  simp [engineStep, hb, hd]

/-- No command acts on the host port. -/
theorem Completion.host_replies {i : Instr} {s t : State} (h : Completion i s t) :
    t.host = s.host ∧ t.replies = s.replies := by
  cases h <;> exact ⟨rfl, rfl⟩

/-- Settles O13: the WAIT's busy reads, the engine's turn, which leaves the host port as it is, and the
read that ends the WAIT. -/
theorem waitMakesAnyNumberOfReads : Obligations.WaitMakesAnyNumberOfReads := by
  intro s t i n rest hb hd hh hexec htb
  obtain ⟨hthost, htreplies⟩ := (exec_completion hexec).host_replies
  have hturn : step (s.afterReads n rest) = .next t := by
    rw [step_of_engineTurn (s := s.afterReads n rest) hb (.inr (.inr ⟨rest, rfl, rfl⟩)),
      engineStep_of_decode (s := setHost _ (s.afterReads n rest)) hb hd]
    exact hexec
  rw [run_busyReads hb hh, run_succ_of_step hturn, run_succ_of_step (step_wait_idle htb hthost)]
  change Host.Outcome.next (reply (.data t.status) (setHost rest t)) = _
  rw [reply, setHost_replies, htreplies]
  rfl

end Sys2Proof.Machine
end

/-! The prime sampler (40_primegen.md): what a word gives on this hardware, and PRIMEGEN. -/

section
namespace Sys2Proof.Machine

/-- With this hardware's range the candidate of a word is 100 plus its bits 9:0, when they are below
900 (40_primegen.md R92). -/
theorem candidateOf_params_eq_some_iff {w : Word} {c : ℤ} :
    candidateOf Config.params w = some c ↔
      w.toNat % 1024 < 900 ∧ c = ((100 + w.toNat % 1024 : ℕ) : ℤ) := by
  have hbits : bitlen (Config.params.primeHi - Config.params.primeLo - 1).toNat = 10 := by decide
  rw [candidateOf_eq_some_iff, hbits]
  simp only [Config.params, low]
  omega

/-- A word gives a prime when it gives the sampler a candidate that the tester accepts. -/
theorem givesPrime_iff {w : Word} {p : ℕ} :
    GivesPrime w p ↔ candidateOf Config.params w = some (p : ℤ) ∧ isPrime p = true := by
  rw [candidateOf_params_eq_some_iff, isPrime_eq_decide, Int.toNat_natCast, decide_eq_true_iff,
    Nat.cast_inj, and_assoc, GivesPrime]

/-- The sampler skips exactly the words that give no prime. -/
theorem passedOver_iff_skipped {w : Word} : PassedOver w ↔ Skipped Config.params w := by
  constructor
  · intro h c hc
    obtain ⟨-, rfl⟩ := candidateOf_params_eq_some_iff.1 hc
    exact Bool.eq_false_iff.2 fun hp => h _ (givesPrime_iff.2 ⟨hc, hp⟩)
  · intro h p hp
    obtain ⟨hc, hprime⟩ := givesPrime_iff.1 hp
    exact absurd hprime (Bool.eq_false_iff.1 (h p hc))

/-- The sampler takes the first word that gives a prime (40_primegen.md R91). -/
theorem samplePrime_eq_some_of_givesPrime {pre rest : List Word} {w : Word} {p : ℕ}
    (hpre : ∀ x ∈ pre, PassedOver x) (hw : GivesPrime w p) :
    samplePrime Config.params (pre ++ w :: rest) = some ((p : ℤ), rest) :=
  samplePrime_eq_some_iff.2
    ⟨pre, w, rfl, fun x hx => passedOver_iff_skipped.1 (hpre x hx), givesPrime_iff.1 hw⟩

/-- The sampler waits while no word gives a prime (40_primegen.md R95). -/
theorem samplePrime_params_eq_none_iff {ws : List Word} :
    samplePrime Config.params ws = none ↔ ∀ x ∈ ws, PassedOver x := by
  simp only [samplePrime_eq_none_iff, passedOver_iff_skipped]

/-- The words consumed before `rest` are counted one by one (40_primegen.md R96). -/
theorem consume_of_append {s : State} {used rest : List Word} (h : s.rngWords = used ++ rest) :
    consume rest s = { s with rngWords := rest, rngUsed := s.rngUsed + used.length } := by
  simp [consume, h]

/-- The random source delivers at most one word in its turn (40_primegen.md R95; log 3). -/
theorem awaitWord_eq_append (s : State) :
    ∃ more : List Word, more.length ≤ 1 ∧ awaitWord s = { s with rngWords := s.rngWords ++ more } :=
  ⟨(Config.rngStream _).toList, by cases Config.rngStream _ <;> simp, rfl⟩

/-- PRIMEGEN ends with the sampled prime in RES (40_primegen.md R90). -/
theorem primegenWith_of_sample {P : Params} {s : State} {p : ℤ} {rest : List Word}
    (h : samplePrime P s.rngWords = some (p, rest)) :
    primegenWith P s = succeed (writeRes p (consume rest s)) := by
  simp only [primegenWith, h, finishRes]

/-- PRIMEGEN leaves the turn to the random source while the words do not suffice
(40_primegen.md R95). -/
theorem primegenWith_of_none {P : Params} {s : State} (h : samplePrime P s.rngWords = none) :
    primegenWith P s = awaitWord s := by
  simp only [primegenWith, h]

/-- Settles O31: the sampler skips the words passed over, and the words consumed are those and w. -/
theorem primegenTakesFirstPrime : Obligations.PrimegenTakesFirstPrime := by
  intro s pre rest w p hws hpre hw
  have hsample : samplePrime Config.params s.rngWords = some ((p : ℤ), rest) :=
    hws ▸ samplePrime_eq_some_of_givesPrime hpre hw
  have hconsume := consume_of_append (s := s) (used := pre ++ [w]) (rest := rest) (by simp [hws])
  rw [exec, execPrimegen, primegenWith_of_sample hsample, hconsume, List.length_append]
  simp only [writeRes, BitVec.ofInt_natCast]
  rfl

/-- Settles O32: the sampler's answer is none, so the step is the random source's. -/
theorem primegenHangsWithoutPrime : Obligations.PrimegenHangsWithoutPrime := by
  intro s hs
  obtain ⟨more, hmore, hwait⟩ := awaitWord_eq_append s
  refine ⟨more, hmore, ?_⟩
  rw [exec, execPrimegen, primegenWith_of_none (samplePrime_params_eq_none_iff.2 hs), hwait]

/-- Settles O33: the value is a prime candidate, and the words read are those skipped and its own. -/
theorem sampledPrimeInRange : Obligations.SampledPrimeInRange := by
  intro P ws rest p hP h
  obtain ⟨pre, w, hws, -⟩ := samplePrime_eq_some_iff.1 h
  obtain ⟨n, rfl, hprime, hlo, hhi⟩ := samplePrime_prime hP h
  exact ⟨hlo, hhi, hprime, pre ++ [w], by simp, by simpa using hws⟩

end Sys2Proof.Machine
end

/-! ISPRIME (41_isprime.md): the verdict it writes to RES. -/

section
namespace Sys2Proof.Machine

/-- Every prime is at least 2, so the tester answers yes exactly there (41_isprime.md R102). -/
theorem isPrime_iff (n : ℤ) : isPrime n = true ↔ 2 ≤ n ∧ n.toNat.Prime := by
  rw [isPrime_eq_decide, decide_eq_true_iff, iff_and_self]
  intro hp
  have := hp.two_le
  omega

/-- ISPRIME writes the tester's verdict to RES and ends without an exception (41_isprime.md R100). -/
theorem execIsprime_eq_next (s : State) :
    execIsprime s = .next
      { s with res := if isPrime (opA s) then 1 else 0, err := 0, busy := false } := by
  rw [execIsprime]
  cases isPrime (opA s) <;> rfl

/-- Settles O18: the verdict written is the primality of OPA. -/
theorem isprimeDecidesPrimality : Obligations.IsprimeDecidesPrimality := by
  intro s
  simp only [exec, execIsprime_eq_next, isPrime_iff, opA]

end Sys2Proof.Machine
end

/-! The modular inverse and MODINV (42_modinv.md). -/

section
namespace Sys2Proof.Machine

/-! ### What modInv answers -/

/-- A modulus below 1 or a negative operand raises Range, the negative operand modulo 1 too
(42_modinv.md R113). -/
theorem modInv_of_out_of_range {a m : ℤ} (h : m ≤ 0 ∨ a < 0) : modInv a m = .error .range := by
  rw [modInv]
  rcases h with hm | ha
  · rw [if_pos hm]
  · rw [if_pos ha, ite_self]

/-- Modulo 1 every operand has the inverse 0 (42_modinv.md R112). -/
theorem modInv_one {a : ℤ} (ha : 0 ≤ a) : modInv a 1 = .ok 0 := by
  simp [modInv, not_lt.2 ha]

/-- Two inverses of a unit modulo m that lie in [0, m) are the same number. -/
theorem eq_of_mul_emod_eq_one {a m x y : ℤ} (hg : Int.gcd a m = 1) (hx : 0 ≤ x ∧ x < m)
    (hy : 0 ≤ y ∧ y < m) (hax : a * x % m = 1) (hay : a * y % m = 1) : y = x := by
  have hmod : a * x ≡ a * y [ZMOD m] := hax.trans hay.symm
  have hcancel : x ≡ y [ZMOD m] := by
    simpa [Int.gcd_comm m a, hg] using Int.ModEq.cancel_left_div_gcd (by omega) hmod
  calc y = y % m := (Int.emod_eq_of_lt hy.1 hy.2).symm
    _ = x % m := hcancel.symm
    _ = x := Int.emod_eq_of_lt hx.1 hx.2

section
variable {a m : ℤ} (ha : 0 ≤ a) (ha' : a ≤ int64Max) (hm : 1 < m) (hm' : m ≤ int64Max)
include ha ha' hm hm'

/-- Coprime operands have an inverse in [0, m), and modInv answers it (42_modinv.md R112). -/
theorem modInv_of_coprime (hg : Int.gcd a m = 1) :
    ∃ x, modInv a m = .ok x ∧ 0 ≤ x ∧ x < m ∧ a * x % m = 1 := by
  obtain ⟨-, hinv⟩ | ⟨hng, -⟩ := modInv_cases ha ha' hm hm'
  · exact hinv
  · exact absurd hg hng

/-- Operands that are not coprime raise NoInverse (42_modinv.md R114). -/
theorem modInv_of_not_coprime (hg : Int.gcd a m ≠ 1) : modInv a m = .error .noInverse := by
  obtain ⟨hg1, -⟩ | ⟨-, herr⟩ := modInv_cases ha ha' hm hm'
  · exact absurd hg1 hg
  · exact herr

/-- Whatever number of [0, m) inverts a is the answer of modInv. -/
theorem modInv_eq_ok_of_mul_emod {y : ℤ} (hg : Int.gcd a m = 1) (hy : 0 ≤ y ∧ y < m)
    (hay : a * y % m = 1) : modInv a m = .ok y := by
  obtain ⟨x, hx, hx0, hxm, hax⟩ := modInv_of_coprime ha ha' hm hm' hg
  rw [hx, eq_of_mul_emod_eq_one hg ⟨hx0, hxm⟩ hy hax hay]

end

/-- modInv depends on a only through a mod m (42_modinv.md R112): the remainder has the same gcd with m,
and the same inverse where that gcd is 1. -/
theorem modInv_emod {a m : ℤ} (ha : 0 ≤ a) (ha' : a ≤ int64Max) (hm : 1 ≤ m) (hm' : m ≤ int64Max) :
    modInv a m = modInv (a % m) m := by
  have hr : 0 ≤ a % m := Int.emod_nonneg a (by omega)
  have hr' : a % m ≤ int64Max := (Int.emod_lt_of_pos a hm).le.trans hm'
  obtain rfl | hm1 := hm.eq_or_lt
  · rw [modInv_one ha, modInv_one hr]
  · by_cases hg : Int.gcd (a % m) m = 1
    · obtain ⟨x, hx, hx0, hxm, hinv⟩ := modInv_of_coprime hr hr' hm1 hm' hg
      have hax : a * x % m = 1 := ((Int.mod_modEq a m).mul_right x).eq.symm.trans hinv
      rw [Int.gcd_emod] at hg
      rw [hx, modInv_eq_ok_of_mul_emod ha ha' hm1 hm' hg ⟨hx0, hxm⟩ hax]
    · rw [modInv_of_not_coprime hr hr' hm1 hm' hg]
      rw [Int.gcd_emod] at hg
      exact modInv_of_not_coprime ha ha' hm1 hm' hg

/-- Settles O19: the inverse of `modInv_of_coprime` is the only one in [0, m), and a mod m has the
same. -/
theorem modInvContract : Obligations.ModInvContract := by
  intro a m ha ha' hm hm'
  refine ⟨fun hm1 hg => ?_, ?_, modInv_emod ha ha' hm hm'⟩
  · obtain ⟨x, hx, hx0, hxm, hax⟩ := modInv_of_coprime ha ha' hm1 hm' hg
    exact ⟨x, hx, hx0, hxm, hax, fun y hy0 hym hay =>
      eq_of_mul_emod_eq_one hg ⟨hx0, hxm⟩ ⟨hy0, hym⟩ hax hay⟩
  · rintro rfl
    exact modInv_one ha

/-- Settles O23: a modulus above 1 gives an inverse or NoInverse, the modulus 1 gives 0, and all other
operands raise Range. -/
theorem modInvNeverOverflows : Obligations.ModInvNeverOverflows := by
  intro a m
  by_cases hout : m.toInt ≤ 0 ∨ a.toInt < 0
  · rw [modInv_of_out_of_range hout]
    simp
  · push Not at hout
    obtain ⟨hm, ha⟩ := hout
    obtain hm1 | hm1 : m.toInt = 1 ∨ 1 < m.toInt := by omega
    · rw [hm1, modInv_one ha]
      simp
    · obtain ⟨-, x, hx, -⟩ | ⟨-, herr⟩ := modInv_cases ha (fits_toInt a).2 hm1 (fits_toInt m).2
      · simp [hx]
      · simp [herr]

/-! ### MODINV -/

/-- A value of modInv goes to RES (42_modinv.md R110). -/
theorem exec_modinv_of_ok {s : State} {x : ℤ} (h : modInv s.opa.toInt s.opm.toInt = .ok x) :
    exec .modinv s = .next { s with res := BitVec.ofInt 64 x, err := 0, busy := false } := by
  rw [exec, execModinv, opA, opM, h]
  rfl

/-- An exception of modInv goes to ERR (60_exceptions.md R190). -/
theorem exec_modinv_of_error {s : State} {x : Exc} (h : modInv s.opa.toInt s.opm.toInt = .error x) :
    exec .modinv s = .next { s with err := x.code, busy := false } := by
  rw [exec, execModinv, opA, opM, h]
  rfl

/-- Settles O20: modInv answers 0 for the modulus 1, and the inverse for a larger one. -/
theorem modinvCompletes : Obligations.ModinvCompletes := by
  intro s ha hm hg
  obtain hm1 | hm1 : s.opm.toInt = 1 ∨ 1 < s.opm.toInt := by omega
  · exact ⟨0, le_rfl, hm, .inl hm1, exec_modinv_of_ok (by rw [hm1, modInv_one ha])⟩
  · obtain ⟨x, hx, hx0, hxm, hax⟩ :=
      modInv_of_coprime ha (fits_toInt s.opa).2 hm1 (fits_toInt s.opm).2 hg
    exact ⟨x, hx0, hxm, .inr hax, exec_modinv_of_ok hx⟩

/-- Settles O21: modInv tests the operands' range before anything else, the modulus 1 included. -/
theorem modinvRange : Obligations.ModinvRange :=
  fun _ h => exec_modinv_of_error (modInv_of_out_of_range h)

/-- Settles O22: for a modulus above 1 and a gcd other than 1 modInv raises NoInverse. -/
theorem modinvNoInverse : Obligations.ModinvNoInverse :=
  fun s ha hm hg => exec_modinv_of_error
    (modInv_of_not_coprime ha (fits_toInt s.opa).2 hm (fits_toInt s.opm).2 hg)

end Sys2Proof.Machine
end

/-! The modular multiplier, the modular exponentiation and MODEXP (43_modexp.md). -/

section
namespace Sys2Proof.Machine

/-! ### What the loop holds at bit k -/

/-- The loop's result before the pass for bit k: the power for the bits below k (43_modexp.md R126). -/
def resultAt (b : ℤ) (e : ℕ) (m : ℤ) (k : ℕ) : ℤ := b ^ (e % 2 ^ k) % m

/-- The loop's base before the pass for bit k (43_modexp.md R126). -/
def baseAt (b m : ℤ) (k : ℕ) : ℤ := b ^ 2 ^ k % m

/-- A product of the pass for bit k exceeds INT64_MAX: the multiply step's, if the bit is set, or the
square step's, if a higher bit remains (43_modexp.md R127). -/
def OverflowsAt (b : ℤ) (e : ℕ) (m : ℤ) (k : ℕ) : Prop :=
  (e.testBit k = true ∧ int64Max < resultAt b e m k * baseAt b m k) ∨
    (2 ^ (k + 1) ≤ e ∧ int64Max < baseAt b m k * baseAt b m k)

theorem productOverflows_iff {b : ℤ} {e : ℕ} {m : ℤ} :
    ProductOverflows b e m ↔ ∃ k, OverflowsAt b e m k := Iff.rfl

section
variable {b : ℤ} {e : ℕ} {m : ℤ} {k : ℕ}

theorem resultAt_nonneg (hm : 0 < m) : 0 ≤ resultAt b e m k := Int.emod_nonneg _ hm.ne'

theorem baseAt_nonneg (hm : 0 < m) : 0 ≤ baseAt b m k := Int.emod_nonneg _ hm.ne'

/-- The loop starts with the result 1. -/
theorem resultAt_zero (hm : 1 < m) : resultAt b e m 0 = 1 := by
  rw [resultAt, pow_zero, Nat.mod_one, pow_zero, Int.emod_eq_of_lt one_pos.le hm]

/-- The loop starts with the base reduced modulo m (43_modexp.md R129). -/
theorem baseAt_zero : baseAt b m 0 = b % m := by
  rw [baseAt, pow_zero, pow_one]

/-- The multiply step, made where bit k is set, takes the result from bit k to the next. -/
theorem resultAt_succ : resultAt b e m (k + 1) =
    if e.testBit k then resultAt b e m k * baseAt b m k % m else resultAt b e m k := by
  rw [resultAt, Nat.mod_pow_succ, ← Nat.toNat_testBit]
  cases e.testBit k <;> simp [resultAt, baseAt, pow_add, Int.mul_emod]

/-- The square step takes the base from bit k to the next. -/
theorem baseAt_succ : baseAt b m (k + 1) = baseAt b m k * baseAt b m k % m := by
  rw [baseAt, baseAt, pow_succ 2, mul_two, pow_add, Int.mul_emod]

/-- From the bit where the exponent ends on, the result is the whole power. -/
theorem resultAt_of_lt (h : e < 2 ^ k) : resultAt b e m k = b ^ e % m := by
  rw [resultAt, Nat.mod_eq_of_lt h]

/-- No product is formed above the last bit of the exponent. -/
theorem not_overflowsAt_of_lt (h : e < 2 ^ k) : ∀ j ≥ k, ¬ OverflowsAt b e m j := by
  intro j hj
  have hlt : e < 2 ^ j := h.trans_le (Nat.pow_le_pow_right two_pos hj)
  rintro (⟨hbit, -⟩ | ⟨hle, -⟩)
  · exact hlt.not_ge (Nat.ge_two_pow_of_testBit hbit)
  · exact hlt.not_ge ((Nat.pow_le_pow_right two_pos j.le_succ).trans hle)

/-- The product of two residues is at most (m - 1)², and 3037000499² does not exceed INT64_MAX
(43_modexp.md R127). -/
theorem lt_modulus_of_lt_mul {x y : ℤ} (hm : 0 < m) (h : int64Max < x % m * (y % m)) :
    3037000500 < m := by
  by_contra hle
  have hx := Int.emod_lt_of_pos x hm
  have hy := Int.emod_lt_of_pos y hm
  have hmul : x % m * (y % m) ≤ 3037000499 * 3037000499 :=
    mul_le_mul (by omega) (by omega) (Int.emod_nonneg y hm.ne') (by decide)
  exact absurd (h.trans_le hmul) (by decide)

/-- Only a modulus above 3037000500 lets a product overflow (43_modexp.md R127). -/
theorem lt_of_productOverflows (hm : 0 < m) (h : ProductOverflows b e m) : 3037000500 < m := by
  obtain ⟨k, ⟨-, hmul⟩ | ⟨-, hsq⟩⟩ := productOverflows_iff.1 h
  · exact lt_modulus_of_lt_mul hm hmul
  · exact lt_modulus_of_lt_mul hm hsq

end

/-! ### The multiplier and the loop -/

/-- The multiplier raises Overflow for a product above INT64_MAX, before it is reduced
(43_modexp.md R120). -/
theorem mulmod_eq {a b m : ℤ} (ha : 0 ≤ a) (hb : 0 ≤ b) :
    mulmod a b m = if int64Max < a * b then .error .overflow else .ok (a * b % m) := by
  rw [mulmod]
  split
  · next h => rw [chk_of_not_fits fun hfit => not_le.2 h hfit.2]; rfl
  · next h => rw [chk_of_fits ⟨le_trans (by decide) (mul_nonneg ha hb), not_lt.1 h⟩]; rfl

/-- One pass of the loop on a natural exponent (43_modexp.md R123). -/
theorem modExpLoop_succ (fuel : ℕ) (m result base : ℤ) {exp : ℕ} (h : 0 < exp) :
    modExpLoop (fuel + 1) m result base exp =
      (if exp % 2 = 1 then mulmod result base m else .ok result) >>= fun result =>
        (if 0 < exp / 2 then mulmod base base m else .ok base) >>= fun base =>
          modExpLoop fuel m result base (exp / 2 : ℕ) := by
  rw [modExpLoop, if_pos (by exact_mod_cast h)]
  norm_cast
  simp only [gt_iff_lt, Int.natCast_pos]
  split <;> split <;> rfl

/-- The loop returns its result when no bit of the exponent remains. -/
theorem modExpLoop_zero (fuel : ℕ) (m result base : ℤ) :
    modExpLoop fuel m result base (0 : ℕ) = .ok result := by
  cases fuel <;> simp [modExpLoop]

/-- The loop of modExp(b, e, m) from the pass for bit k on. -/
def loopAt (fuel : ℕ) (b : ℤ) (e : ℕ) (m : ℤ) (k : ℕ) : Except Exc ℤ :=
  modExpLoop fuel m (resultAt b e m k) (baseAt b m k) (e / 2 ^ k : ℕ)

section
variable {b : ℤ} {e : ℕ} {m : ℤ} {k : ℕ}

theorem loopAt_of_lt {fuel : ℕ} (h : e < 2 ^ k) : loopAt fuel b e m k = .ok (b ^ e % m) := by
  rw [loopAt, Nat.div_eq_of_lt h, modExpLoop_zero, resultAt_of_lt h]

/-- The multiply step at bit k: Overflow, or the result for the next bit. -/
theorem multiplyStep_eq (hm : 0 < m) :
    (if e / 2 ^ k % 2 = 1 then mulmod (resultAt b e m k) (baseAt b m k) m
      else .ok (resultAt b e m k)) =
    if e.testBit k = true ∧ int64Max < resultAt b e m k * baseAt b m k then .error .overflow
      else .ok (resultAt b e m (k + 1)) := by
  rw [mulmod_eq (resultAt_nonneg hm) (baseAt_nonneg hm), resultAt_succ,
    Nat.testBit_eq_decide_div_mod_eq]
  by_cases hbit : e / 2 ^ k % 2 = 1 <;> simp [hbit]

/-- The pass for bit k raises Overflow if one of its products overflows, and else goes on with the next
bit. -/
theorem loopAt_succ_cases (hm : 0 < m) (hk : 2 ^ k ≤ e) (fuel : ℕ) :
    (OverflowsAt b e m k ∧ loopAt (fuel + 1) b e m k = .error .overflow) ∨
      (¬ OverflowsAt b e m k ∧ loopAt (fuel + 1) b e m k = loopAt fuel b e m (k + 1)) := by
  rw [loopAt, modExpLoop_succ _ _ _ _ (Nat.div_pos hk (by positivity)), multiplyStep_eq hm,
    Nat.div_div_eq_div_mul, ← pow_succ]
  by_cases hmul : e.testBit k = true ∧ int64Max < resultAt b e m k * baseAt b m k
  · rw [if_pos hmul]
    exact .inl ⟨.inl hmul, rfl⟩
  · rw [if_neg hmul]
    by_cases hnext : 2 ^ (k + 1) ≤ e
    · rw [if_pos (Nat.div_pos hnext (by positivity)), mulmod_eq (baseAt_nonneg hm) (baseAt_nonneg hm)]
      by_cases hsq : int64Max < baseAt b m k * baseAt b m k
      · rw [if_pos hsq]
        exact .inl ⟨.inr ⟨hnext, hsq⟩, rfl⟩
      · rw [if_neg hsq, ← baseAt_succ]
        exact .inr ⟨fun h => h.elim hmul fun h => hsq h.2, rfl⟩
    · have hlt := not_le.1 hnext
      rw [loopAt_of_lt hlt, Nat.div_eq_of_lt hlt, ← resultAt_of_lt hlt]
      exact .inr ⟨fun h => h.elim hmul fun h => hnext h.1, modExpLoop_zero _ _ _ _⟩

/-- From bit k on the loop raises Overflow if a product overflows there, and else ends with the power
(43_modexp.md R126, R127). -/
theorem loopAt_cases {fuel : ℕ} (hm : 0 < m) (hfuel : e < 2 ^ (k + fuel)) :
    ((∃ j ≥ k, OverflowsAt b e m j) ∧ loopAt fuel b e m k = .error .overflow) ∨
      ((∀ j ≥ k, ¬ OverflowsAt b e m j) ∧ loopAt fuel b e m k = .ok (b ^ e % m)) := by
  induction fuel generalizing k with
  | zero => exact .inr ⟨not_overflowsAt_of_lt hfuel, loopAt_of_lt hfuel⟩
  | succ fuel ih =>
    obtain hlt | hle := lt_or_ge e (2 ^ k)
    · exact .inr ⟨not_overflowsAt_of_lt hlt, loopAt_of_lt hlt⟩
    · obtain ⟨hover, herr⟩ | ⟨hnot, hpass⟩ := loopAt_succ_cases (b := b) hm hle fuel
      · exact .inl ⟨⟨k, le_rfl, hover⟩, herr⟩
      · rw [hpass]
        have hfuel' : e < 2 ^ (k + 1 + fuel) := by rwa [Nat.add_assoc, Nat.add_comm 1]
        obtain ⟨⟨j, hj, hover⟩, herr⟩ | ⟨hall, hok⟩ := ih hfuel'
        · exact .inl ⟨⟨j, by omega, hover⟩, herr⟩
        · refine .inr ⟨fun j hj => ?_, hok⟩
          obtain rfl | hj := hj.eq_or_lt
          · exact hnot
          · exact hall j hj

end

/-! ### What modExp answers -/

theorem lt_two_pow_bitlen (n : ℕ) : n < 2 ^ bitlen n := by
  rw [bitlen]
  split
  · next h => rw [h, pow_zero]; exact one_pos
  · exact Nat.lt_log2_self

/-- A negative exponent or base or a modulus below 1 raises Range (43_modexp.md R124). -/
theorem modExp_of_out_of_range {b e m : ℤ} (h : e < 0 ∨ m ≤ 0 ∨ b < 0) :
    modExp b e m = .error .range := by
  rw [modExp]
  rcases h with he | hm | hb
  · rw [if_pos he]
  · rw [if_pos hm, ite_self]
  · rw [if_pos hb, ite_self, ite_self]

/-- The test of the modulus 1 stands before the loop (43_modexp.md R125). -/
theorem modExp_one {b e : ℤ} (hb : 0 ≤ b) (he : 0 ≤ e) : modExp b e 1 = .ok 0 := by
  simp [modExp, not_lt.2 hb, not_lt.2 he]

/-- Operands in range and a modulus above 1 go to the loop, the base reduced (43_modexp.md R123). -/
theorem modExp_of_one_lt {b e m : ℤ} (hb : 0 ≤ b) (he : 0 ≤ e) (hm : 1 < m) :
    modExp b e m = modExpLoop (bitlen e.toNat) m 1 (b % m) e := by
  rw [modExp, if_neg (not_lt.2 he), if_neg (by omega), if_neg (not_lt.2 hb), if_neg hm.ne']

/-- What modExp answers for operands in range (43_modexp.md R126, R127): Overflow if a product that it
forms overflows, and else the power. -/
theorem modExp_cases {b e m : ℤ} (hb : 0 ≤ b) (he : 0 ≤ e) (hm : 0 < m) :
    (ProductOverflows b e.toNat m ∧ modExp b e m = .error .overflow) ∨
      (¬ ProductOverflows b e.toNat m ∧ modExp b e m = .ok (b ^ e.toNat % m)) := by
  obtain rfl | hm1 : m = 1 ∨ 1 < m := by omega
  · refine .inr ⟨fun h => absurd (lt_of_productOverflows hm h) (by decide), ?_⟩
    rw [modExp_one hb he, Int.emod_one]
  · have hloop : modExp b e m = loopAt (bitlen e.toNat) b e.toNat m 0 := by
      rw [modExp_of_one_lt hb he hm1, loopAt, resultAt_zero hm1, baseAt_zero, pow_zero, Nat.div_one,
        Int.toNat_of_nonneg he]
    have hfuel : e.toNat < 2 ^ (0 + bitlen e.toNat) := by
      rw [zero_add]
      exact lt_two_pow_bitlen _
    simpa [hloop, productOverflows_iff] using loopAt_cases (b := b) hm hfuel

/-- Settles O24: a value is returned for operands in range only, and it is the power. -/
theorem modExpContract : Obligations.ModExpContract := by
  intro b e m r h
  by_cases hout : e < 0 ∨ m ≤ 0 ∨ b < 0
  · simp [modExp_of_out_of_range hout] at h
  · push Not at hout
    obtain ⟨he, hm, hb⟩ := hout
    obtain ⟨-, herr⟩ | ⟨-, hok⟩ := modExp_cases hb he hm
    · simp [herr] at h
    · obtain rfl : b ^ e.toNat % m = r := by simpa [hok] using h
      exact ⟨Int.emod_nonneg _ hm.ne', Int.emod_lt_of_pos _ hm, rfl⟩

/-- Settles O27: each example's loop is run; the longest makes six passes. -/
theorem modexpOverflowBoundary : Obligations.ModexpOverflowBoundary := by
  unfold Obligations.ModexpOverflowBoundary
  decide

/-- Settles O29: the loop is not reached for the modulus 1, and makes no pass for the exponent 0. -/
theorem modexpModulusOneExponentZero : Obligations.ModexpModulusOneExponentZero :=
  ⟨fun _ _ => modExp_one, fun _ _ hb hm =>
    (modExp_of_one_lt hb le_rfl hm).trans (modExpLoop_zero _ _ _ _)⟩

/-- Settles O30: the loop starts from the base reduced, and a reduced base stays as it is. -/
theorem modexpReducesBase : Obligations.ModexpReducesBase := by
  intro b e m hb hm
  obtain he | he := lt_or_ge e 0
  · rw [modExp_of_out_of_range (.inl he), modExp_of_out_of_range (.inl he)]
  · rw [modExp_of_one_lt hb he hm, modExp_of_one_lt (Int.emod_nonneg b (by omega)) he hm,
      Int.emod_emod]

/-! ### MODEXP -/

/-- A value of modExp goes to RES (43_modexp.md R122). -/
theorem exec_modexp_of_ok {s : State} {r : ℤ}
    (h : modExp s.opa.toInt s.opb.toInt s.opm.toInt = .ok r) :
    exec .modexp s = .next { s with res := BitVec.ofInt 64 r, err := 0, busy := false } := by
  rw [exec, execModexp, opA, opB, opM, h]
  rfl

/-- An exception of modExp goes to ERR (60_exceptions.md R190). -/
theorem exec_modexp_of_error {s : State} {x : Exc}
    (h : modExp s.opa.toInt s.opb.toInt s.opm.toInt = .error x) :
    exec .modexp s = .next { s with err := x.code, busy := false } := by
  rw [exec, execModexp, opA, opB, opM, h]
  rfl

/-- Settles O26: modExp answers Overflow or the power, by whether a product overflows. -/
theorem modexpPowerOrOverflow : Obligations.ModexpPowerOrOverflow := by
  intro s hb he hm
  obtain ⟨hover, herr⟩ | ⟨hnot, hok⟩ := modExp_cases hb he hm
  · exact ⟨fun hnot => absurd hover hnot,
      fun _ => ⟨lt_of_productOverflows hm hover, exec_modexp_of_error herr⟩⟩
  · exact ⟨fun _ => exec_modexp_of_ok hok, fun hover => absurd hover hnot⟩

/-- Settles O25: no product overflows for a modulus up to 3037000500. -/
theorem modexpCompletes : Obligations.ModexpCompletes := fun s hb he hm hle =>
  (modexpPowerOrOverflow s hb he hm).1 fun hover => hle.not_gt (lt_of_productOverflows hm hover)

/-- Settles O28: modExp tests the operands' range before anything else, the modulus 1 included. -/
theorem modexpRange : Obligations.ModexpRange :=
  fun _ h => exec_modexp_of_error (modExp_of_out_of_range h)

end Sys2Proof.Machine
end

/-! Key construction and KEYGEN (44_keygen.md). -/

section
namespace Sys2Proof.Machine

/-! ### What keyFrom answers -/

/-- A number that is not negative fits when it is at most INT64_MAX (00_scope.md R5). -/
theorem fits_of_nonneg {v : ℤ} (h0 : 0 ≤ v) (h : v ≤ int64Max) : Fits v :=
  fits_of_abs_le (abs_of_nonneg h0).le h

section
variable {P : Params} {p q : ℤ}

/-- Equal primes make no key (44_keygen.md R140 a). -/
theorem keyFrom_self : keyFrom P p p = .error .keyGen := if_pos rfl

/-- A product that does not fit is Overflow (60_exceptions.md R192). -/
theorem keyFrom_of_not_fits (hne : p ≠ q) (hn : ¬ Fits (p * q)) : keyFrom P p q = .error .overflow := by
  rw [keyFrom, if_neg hne, chk_of_not_fits hn]
  rfl

/-- With the product and the totient below 2^63 the inverse of E_PUB completes the key
(44_keygen.md R138). -/
theorem keyFrom_of_inverse {d : ℤ} (hne : p ≠ q) (hn : Fits (p * q)) (hphi : Fits ((p - 1) * (q - 1)))
    (hd : modInv P.ePub ((p - 1) * (q - 1)) = .ok d) : keyFrom P p q = .ok ⟨P.ePub, p * q, d⟩ := by
  simp only [keyFrom, if_neg hne, chk_of_fits hn, chk_of_fits hphi, bind, Except.bind, hd]

/-- A missing inverse shows as KeyGen, not as NoInverse (44_keygen.md R140 b). -/
theorem keyFrom_of_noInverse (hne : p ≠ q) (hn : Fits (p * q)) (hphi : Fits ((p - 1) * (q - 1)))
    (hd : modInv P.ePub ((p - 1) * (q - 1)) = .error .noInverse) :
    keyFrom P p q = .error .keyGen := by
  simp only [keyFrom, if_neg hne, chk_of_fits hn, chk_of_fits hphi, bind, Except.bind, hd]

section
variable (hP : P.wellFormed = true) (hp : 2 ≤ p) (hq : 2 ≤ q) (hne : p ≠ q) (hn : p * q ≤ int64Max)

include hp hq hne

/-- The totient of two distinct numbers from 2 on exceeds 1 and is below their product. -/
theorem totient_range : 1 < (p - 1) * (q - 1) ∧ (p - 1) * (q - 1) < p * q := by
  constructor
  · rcases hne.lt_or_gt with h | h <;> nlinarith
  · nlinarith

include hP hn

/-- E_PUB prime to the totient makes a key (44_keygen.md R138). -/
theorem keyFrom_of_coprime (hg : Int.gcd P.ePub ((p - 1) * (q - 1)) = 1) :
    ∃ d, 0 ≤ d ∧ d < (p - 1) * (q - 1) ∧ P.ePub * d % ((p - 1) * (q - 1)) = 1 ∧
      keyFrom P p q = .ok ⟨P.ePub, p * q, d⟩ := by
  obtain ⟨-, -, -, he, he'⟩ := Params.wellFormed_iff.1 hP
  obtain ⟨hlo, hhi⟩ := totient_range hp hq hne
  obtain ⟨d, hd, hd0, hdlt, hmul⟩ := modInv_of_coprime (by omega) he' hlo (by omega) hg
  exact ⟨d, hd0, hdlt, hmul, keyFrom_of_inverse hne (fits_of_nonneg (by omega) hn)
    (fits_of_nonneg (by omega) (by omega)) hd⟩

/-- E_PUB not prime to the totient is KeyGen (44_keygen.md R140 b). -/
theorem keyFrom_of_not_coprime (hg : Int.gcd P.ePub ((p - 1) * (q - 1)) ≠ 1) :
    keyFrom P p q = .error .keyGen := by
  obtain ⟨-, -, -, he, he'⟩ := Params.wellFormed_iff.1 hP
  obtain ⟨hlo, hhi⟩ := totient_range hp hq hne
  exact keyFrom_of_noInverse hne (fits_of_nonneg (by omega) hn)
    (fits_of_nonneg (by omega) (by omega)) (modInv_of_not_coprime (by omega) he' hlo (by omega) hg)

end

end

/-- Settles O39: each clause is the test of keyFrom that decides it. -/
theorem keyConstructionFailures : Obligations.KeyConstructionFailures := by
  intro P p q hP hp hq
  refine ⟨?_, fun hne hover => ?_, keyFrom_of_not_coprime hP hp hq⟩
  · rintro rfl
    exact keyFrom_self
  · exact keyFrom_of_not_fits hne fun hfits => hfits.2.not_gt hover

/-! ### The primes of this hardware -/

/-- A word's prime lies in the range 100 to 999 (40_primegen.md R92). -/
theorem GivesPrime.range {w : Word} {p : ℕ} (h : GivesPrime w p) : 100 ≤ p ∧ p < 1000 := by
  obtain ⟨hv, rfl, -⟩ := h
  omega

/-- 65537 is prime and exceeds p - 1, so the two are coprime. -/
theorem GivesPrime.isCoprime_ePub {w : Word} {p : ℕ} (h : GivesPrime w p) :
    IsCoprime (65537 : ℤ) ((p : ℤ) - 1) := by
  obtain ⟨hlo, hhi⟩ := h.range
  have hprime : Nat.Prime 65537 := by norm_num
  have hcop : Nat.Coprime 65537 (p - 1) := Nat.coprime_of_lt_prime (by omega) (by omega) hprime
  simpa [Nat.cast_pred (show 0 < p by omega)] using Nat.isCoprime_iff_coprime.2 hcop

/-- On this hardware E_PUB is prime to the totient of any two sampled primes (44_keygen.md R141). -/
theorem gcd_ePub_totient {w₁ w₂ : Word} {p q : ℕ} (hp : GivesPrime w₁ p) (hq : GivesPrime w₂ q) :
    Int.gcd Config.params.ePub (((p : ℤ) - 1) * (q - 1)) = 1 :=
  Int.isCoprime_iff_gcd_eq_one.1 (hp.isCoprime_ePub.mul_right hq.isCoprime_ePub)

/-- Two words that give primes give the pair, whatever is passed over before them
(44_keygen.md R137). -/
theorem samplePair_of_givesPrime {pre₁ pre₂ rest : List Word} {w₁ w₂ : Word} {p q : ℕ}
    (hpre₁ : ∀ x ∈ pre₁, PassedOver x) (hw₁ : GivesPrime w₁ p)
    (hpre₂ : ∀ x ∈ pre₂, PassedOver x) (hw₂ : GivesPrime w₂ q) :
    samplePair Config.params (pre₁ ++ w₁ :: (pre₂ ++ w₂ :: rest)) = some ((p : ℤ), (q : ℤ), rest) :=
  samplePair_eq_some_iff.2 ⟨_, samplePrime_eq_some_of_givesPrime hpre₁ hw₁,
    samplePrime_eq_some_of_givesPrime hpre₂ hw₂⟩

/-- With fewer than two primes to come the pair is not complete (44_keygen.md R135). -/
theorem samplePair_of_fewerThanTwoPrimes {ws : List Word} (h : FewerThanTwoPrimes ws) :
    samplePair Config.params ws = none := by
  obtain hnone | ⟨pre, w, p, rest, rfl, hpre, hw, hrest⟩ := h
  · simp only [samplePair, samplePrime_params_eq_none_iff.2 hnone]
  · simp only [samplePair, samplePrime_eq_some_of_givesPrime hpre hw,
      samplePrime_params_eq_none_iff.2 hrest]

/-! ### KEYGEN -/

section
variable {P : Params} {s : State} {p q : ℤ} {rest : List Word} (hv : s.keyValid = false)
include hv

/-- KEYGEN leaves the turn to the random source while the pair is not complete
(44_keygen.md R135). -/
theorem keygenWith_of_none (hs : samplePair P s.rngWords = none) : keygenWith P s = awaitWord s := by
  simp [keygenWith, hv, hs]

/-- A failed key construction is raised, and the words stay consumed (44_keygen.md R139). -/
theorem keygenWith_of_error {x : Exc} (hs : samplePair P s.rngWords = some (p, q, rest))
    (hk : keyFrom P p q = .error x) : keygenWith P s = raise x (consume rest s) := by
  simp [keygenWith, hv, hs, hk]

/-- The key is written whole (44_keygen.md R139). -/
theorem keygenWith_of_key {k : Key} (hs : samplePair P s.rngWords = some (p, q, rest))
    (hk : keyFrom P p q = .ok k) : keygenWith P s = succeed (writeKey k (consume rest s)) := by
  simp [keygenWith, hv, hs, hk]

end

/-- The words of a pair of primes are consumed, those passed over included (40_primegen.md R96). -/
theorem consume_pair {s : State} {pre₁ pre₂ rest : List Word} {w₁ w₂ : Word}
    (h : s.rngWords = pre₁ ++ w₁ :: (pre₂ ++ w₂ :: rest)) :
    consume rest s =
      { s with rngWords := rest, rngUsed := s.rngUsed + (pre₁.length + pre₂.length + 2) } := by
  rw [consume_of_append (used := pre₁ ++ w₁ :: (pre₂ ++ [w₂])) (by simp [h])]
  simp [Nat.add_assoc]

/-- Settles O34: 65537 is prime to the totient and the product fits, so the construction succeeds. -/
theorem keygenBuildsKey : Obligations.KeygenBuildsKey := by
  intro s pre₁ pre₂ rest w₁ w₂ p q hv hws hpre₁ hw₁ hpre₂ hw₂ hne
  have hp := hw₁.range
  have hq := hw₂.range
  have hn : (p : ℤ) * q ≤ int64Max := by
    simp only [int64Max]
    nlinarith
  obtain ⟨d, hd0, hdlt, hmul, hkey⟩ := keyFrom_of_coprime (P := Config.params) (by decide)
    (by omega) (by omega) (Nat.cast_injective.ne hne) hn (gcd_ePub_totient hw₁ hw₂)
  have hs : samplePair Config.params s.rngWords = some ((p : ℤ), (q : ℤ), rest) :=
    hws ▸ samplePair_of_givesPrime hpre₁ hw₁ hpre₂ hw₂
  refine ⟨d, hd0, hdlt, hmul, ?_⟩
  rw [exec, execKeygen, keygenWith_of_key hv hs hkey, consume_pair hws]
  simp only [writeKey, ← Nat.cast_mul, BitVec.ofInt_natCast]
  rfl

/-- Settles O35: the construction fails on the equal primes, after both were drawn. -/
theorem keygenRejectsEqualPrimes : Obligations.KeygenRejectsEqualPrimes := by
  intro s pre₁ pre₂ rest w₁ w₂ p hv hws hpre₁ hw₁ hpre₂ hw₂
  have hs : samplePair Config.params s.rngWords = some ((p : ℤ), (p : ℤ), rest) :=
    hws ▸ samplePair_of_givesPrime hpre₁ hw₁ hpre₂ hw₂
  rw [exec, execKeygen, keygenWith_of_error hv hs keyFrom_self, consume_pair hws]
  rfl

/-- Settles O37: the pair is not complete, so the step is the random source's. -/
theorem keygenHangsWithoutTwoPrimes : Obligations.KeygenHangsWithoutTwoPrimes := by
  intro s hv hs
  obtain ⟨more, hmore, hwait⟩ := awaitWord_eq_append s
  refine ⟨more, hmore, ?_⟩
  rw [exec, execKeygen, keygenWith_of_none hv (samplePair_of_fewerThanTwoPrimes hs), hwait]

/-- Settles O38: KEYVALID is set only by writing what keyFrom made of two sampled primes. -/
theorem keygenSuccessIsAKey : Obligations.KeygenSuccessIsAKey := by
  intro P s hP hv hvalid
  cases hs : samplePair P s.rngWords with
  | none => simp [keygenWith_of_none hv hs, hv] at hvalid
  | some pair =>
    obtain ⟨p, q, rest⟩ := pair
    cases hk : keyFrom P p q with
    | error x => simp [keygenWith_of_error hv hs hk, hv] at hvalid
    | ok k =>
      rw [keygenWith_of_key hv hs hk]
      exact isKey_of_samplePair hP hs hk

end Sys2Proof.Machine
end

/-! Integer encryption and decryption, ENC and DEC (45_encdec.md). -/

section
namespace Sys2Proof.Machine

/-! ### Powers modulo a product of two primes -/

/-- Fermat's little theorem for every base, those that p divides included. -/
theorem pow_modEq_self_of_prime {p k : ℕ} (hp : p.Prime) (hk0 : k ≠ 0) (hk : k ≡ 1 [MOD p - 1])
    (v : ℤ) : v ^ k ≡ v [ZMOD p] := by
  have : Fact p.Prime := ⟨hp⟩
  rw [← ZMod.intCast_eq_intCast_iff, Int.cast_pow]
  obtain hv | hv := eq_or_ne (v : ZMod p) 0
  · rw [hv, zero_pow hk0]
  · rw [pow_eq_pow_of_modEq hk (ZMod.pow_card_sub_one_eq_one hv), pow_one]

/-- An exponent that is 1 modulo the totient of two distinct primes fixes every value modulo their
product, by the Chinese remainder theorem. -/
theorem pow_modEq_self_of_primes {p q k : ℕ} (hp : p.Prime) (hq : q.Prime) (hne : p ≠ q)
    (hk0 : k ≠ 0) (hk : k ≡ 1 [MOD (p - 1) * (q - 1)]) (v : ℤ) : v ^ k ≡ v [ZMOD p * q] :=
  (Int.modEq_and_modEq_iff_modEq_mul (m := p) (n := q) ((Nat.coprime_primes hp hq).2 hne)).1
    ⟨pow_modEq_self_of_prime hp hk0 (hk.of_mul_right _) v,
      pow_modEq_self_of_prime hq hk0 (hk.of_mul_left _) v⟩

/-- An odd power fixes 0, 1 and -1 (45_encdec.md R155). -/
theorem pow_emod_eq_self_of_odd {v n : ℤ} {k : ℕ} (hn : 1 < n) (hk : Odd k)
    (hv : v = 0 ∨ v = 1 ∨ v = n - 1) : v ^ k % n = v := by
  rcases hv with rfl | rfl | rfl
  · rw [zero_pow hk.pos.ne', Int.zero_emod]
  · rw [one_pow, Int.emod_eq_of_lt one_pos.le hn]
  · have hneg : n - 1 ≡ -1 [ZMOD n] := Int.modEq_iff_dvd.2 ⟨-1, by ring⟩
    have hpow : (n - 1) ^ k ≡ n - 1 [ZMOD n] := by
      calc (n - 1) ^ k ≡ (-1) ^ k [ZMOD n] := hneg.pow k
        _ = -1 := hk.neg_one_pow
        _ ≡ n - 1 [ZMOD n] := hneg.symm
    rw [hpow, Int.emod_eq_of_lt (by omega) (by omega)]

/-! ### The two exponents of a key -/

/-- x and y are the two exponents of a key with the modulus n, in either order: their powers undo
each other modulo n, both are odd, and n is one for which no product of modExp overflows
(43_modexp.md R127, 44_keygen.md R142). -/
structure KeyExponents (n x y : ℤ) : Prop where
  one_lt : 1 < n
  le_bound : n ≤ 3037000500
  odd_left : Odd x.toNat
  odd_right : Odd y.toNat
  pow_modEq : ∀ v : ℤ, v ^ (x.toNat * y.toNat) ≡ v [ZMOD n]

/-- The two exponents play the same part. -/
theorem KeyExponents.symm {n x y : ℤ} (h : KeyExponents n x y) : KeyExponents n y x where
  one_lt := h.one_lt
  le_bound := h.le_bound
  odd_left := h.odd_right
  odd_right := h.odd_left
  pow_modEq := mul_comm x.toNat y.toNat ▸ h.pow_modEq

theorem KeyExponents.pos {n x y : ℤ} (h : KeyExponents n x y) : 0 < n := one_pos.trans h.one_lt

theorem KeyExponents.nonneg {n x y : ℤ} (h : KeyExponents n x y) : 0 ≤ x := by
  have := h.odd_left.pos
  omega

/-- The power by one exponent is undone by the other, for every value below the modulus
(45_encdec.md R154). -/
theorem KeyExponents.pow_emod_pow_emod {n x y v : ℤ} (h : KeyExponents n x y) (h0 : 0 ≤ v)
    (hlt : v < n) : (v ^ x.toNat % n) ^ y.toNat % n = v := by
  calc (v ^ x.toNat % n) ^ y.toNat % n = (v ^ x.toNat) ^ y.toNat % n := (Int.mod_modEq _ _).pow _
    _ = v ^ (x.toNat * y.toNat) % n := by rw [pow_mul]
    _ = v % n := h.pow_modEq v
    _ = v := Int.emod_eq_of_lt h0 hlt

/-- On this hardware the exponents e and d of a key are such a pair: the totient is even, the primes
being at least 100, so e * d = 1 modulo the totient makes both odd (44_keygen.md R142). -/
theorem IsKey.keyExponents {e n d : ℤ} (h : IsKey Config.params e n d) : KeyExponents n e d := by
  obtain ⟨p, q, hp, hq, hne, hplo, hphi, hqlo, hqhi, rfl, rfl, hd0, -, hmul⟩ := h
  simp only [Config.params] at hplo hphi hqlo hqhi hmul ⊢
  have hk : (65537 : ℤ).toNat * d.toNat ≡ 1 [MOD (p - 1) * (q - 1)] := by
    have hphi1 := one_lt_totient hp hq hne
    rw [← Int.natCast_modEq_iff, Nat.cast_mul, Nat.cast_mul, Nat.cast_pred hp.pos,
      Nat.cast_pred hq.pos, Int.toNat_of_nonneg hd0]
    exact hmul.trans (Int.emod_eq_of_lt one_pos.le hphi1).symm
  have hodd : Odd ((65537 : ℤ).toNat * d.toNat) := by
    have heven : 2 ∣ p - 1 := (hp.even_sub_one (by omega)).two_dvd
    exact Nat.odd_iff.2 (hk.of_dvd (heven.mul_right _))
  obtain ⟨hodde, hoddd⟩ := Nat.odd_mul.1 hodd
  exact {
    one_lt := by nlinarith
    le_bound := by nlinarith
    odd_left := hodde
    odd_right := hoddd
    pow_modEq := pow_modEq_self_of_primes hp hq hne hodd.pos.ne' hk }

/-- While a key is valid, the key registers hold one (10_state.md R34). -/
theorem State.KeyInv.keyExponents {s : State} (h : s.KeyInv) (hv : s.keyValid = true) :
    KeyExponents s.kn.toInt s.ke.toInt s.kd.toInt := by
  obtain ⟨hnone, -⟩ | ⟨-, hkey⟩ := h
  · simp [hnone] at hv
  · exact hkey.keyExponents

/-! ### The one primitive of both commands -/

theorem exec_enc (s : State) : exec .enc s = .next (finishRes (cryptWith s.ke.toInt s) s) := rfl

theorem exec_dec (s : State) : exec .dec s = .next (finishRes (cryptWith s.kd.toInt s) s) := rfl

/-- The first test is that of KEYVALID, before OPA is looked at (45_encdec.md R151). -/
theorem cryptWith_of_not_keyValid {x : ℤ} {s : State} (hv : s.keyValid = false) :
    cryptWith x s = .error .noKey := if_pos hv

/-- With a key and OPA in [0, KN) the primitive is modExp (43_modexp.md R130). -/
theorem cryptWith_eq_modExp {x : ℤ} {s : State} (hv : s.keyValid = true) (h0 : 0 ≤ s.opa.toInt)
    (hlt : s.opa.toInt < s.kn.toInt) : cryptWith x s = modExp s.opa.toInt x s.kn.toInt := by
  have hdom : ¬ (opA s < 0 ∨ opA s ≥ keyN s) := by
    simp only [opA, keyN]
    omega
  rw [cryptWith, if_neg (by simp [hv]), if_neg hdom]
  rfl

/-- A command's RES and ERR depend on no register but RES, whose old value stands on an exception
(60_exceptions.md R190). -/
theorem finishRes_res_err_congr (r : Except Exc ℤ) {s t : State} (h : s.res = t.res) :
    (finishRes r s).res = (finishRes r t).res ∧ (finishRes r s).err = (finishRes r t).err := by
  cases r with
  | ok v => exact ⟨rfl, rfl⟩
  | error x => exact ⟨h, rfl⟩

/-- The state in which ENC or DEC ends without an exception: OPA's power by the exponent x modulo KN
in RES, and nothing else changed but ERR and BUSY (45_encdec.md R150, R152). -/
def crypted (x : ℤ) (s : State) : State :=
  { s with res := BitVec.ofInt 64 (s.opa.toInt ^ x.toNat % s.kn.toInt), err := 0, busy := false }

section
variable {s : State} {x y : ℤ} (hx : KeyExponents s.kn.toInt x y)
include hx

/-- With a key and OPA in [0, KN) the primitive completes: no product overflows for the modulus of a
key (43_modexp.md R127). -/
theorem finishRes_cryptWith (hv : s.keyValid = true) (h0 : 0 ≤ s.opa.toInt)
    (hlt : s.opa.toInt < s.kn.toInt) : finishRes (cryptWith x s) s = crypted x s := by
  rw [cryptWith_eq_modExp hv h0 hlt]
  obtain ⟨hover, -⟩ | ⟨-, hok⟩ := modExp_cases h0 hx.nonneg hx.pos
  · exact absurd (lt_of_productOverflows hx.pos hover) hx.le_bound.not_gt
  · rw [hok]
    rfl

/-- RES reads back as the power, which a register holds because KN fits one. -/
theorem crypted_res_toInt :
    (crypted x s).res.toInt = s.opa.toInt ^ x.toNat % s.kn.toInt :=
  toInt_ofInt_of_fits (fits_of_nonneg (Int.emod_nonneg _ hx.pos.ne')
    ((Int.emod_lt_of_pos _ hx.pos).le.trans (fits_toInt s.kn).2))

/-- RES is again a value in the domain of the commands (45_encdec.md R150). -/
theorem crypted_res_range :
    0 ≤ (crypted x s).res.toInt ∧ (crypted x s).res.toInt < s.kn.toInt := by
  rw [crypted_res_toInt hx]
  exact ⟨Int.emod_nonneg _ hx.pos.ne', Int.emod_lt_of_pos _ hx.pos⟩

/-- The other exponent gives the value back (45_encdec.md R154). -/
theorem crypted_crypted_res (h0 : 0 ≤ s.opa.toInt) (hlt : s.opa.toInt < s.kn.toInt) :
    (crypted y { crypted x s with opa := (crypted x s).res }).res = s.opa := by
  change BitVec.ofInt 64 ((crypted x s).res.toInt ^ y.toNat % s.kn.toInt) = s.opa
  rw [crypted_res_toInt hx, hx.pow_emod_pow_emod h0 hlt, BitVec.ofInt_toInt]

/-- 0, 1 and KN - 1 are left as they are (45_encdec.md R155). -/
theorem crypted_of_fixed
    (h : s.opa.toInt = 0 ∨ s.opa.toInt = 1 ∨ s.opa.toInt = s.kn.toInt - 1) :
    crypted x s = { s with res := s.opa, err := 0, busy := false } := by
  rw [crypted, pow_emod_eq_self_of_odd hx.one_lt hx.odd_left h, BitVec.ofInt_toInt]

end

/-! ### ENC and DEC -/

/-- Settles O40: ENC is the primitive with the key's first exponent. -/
theorem encCompletes : Obligations.EncCompletes := fun _ hk hv h0 hlt =>
  congrArg _ (finishRes_cryptWith (hk.keyExponents hv) hv h0 hlt)

/-- Settles O41: DEC is the primitive with the key's second exponent. -/
theorem decCompletes : Obligations.DecCompletes := fun _ hk hv h0 hlt =>
  congrArg _ (finishRes_cryptWith (hk.keyExponents hv).symm hv h0 hlt)

/-- Settles O44: the first command's result is in the domain, and the second command, which finds the
same key, undoes the first. -/
theorem encryptionRoundTrip : Obligations.EncryptionRoundTrip := by
  intro s hk hv h0 hlt
  have hed := hk.keyExponents hv
  constructor
  · obtain ⟨hc0, hclt⟩ := crypted_res_range hed
    exact ⟨crypted s.ke.toInt s, _, encCompletes s hk hv h0 hlt, rfl, hc0, hclt,
      decCompletes _ hk hv hc0 hclt, rfl, crypted_crypted_res hed h0 hlt⟩
  · obtain ⟨hc0, hclt⟩ := crypted_res_range hed.symm
    exact ⟨crypted s.kd.toInt s, _, decCompletes s hk hv h0 hlt, rfl, hc0, hclt,
      encCompletes _ hk hv hc0 hclt, rfl, crypted_crypted_res hed.symm h0 hlt⟩

/-- Settles O45: the three values are in the domain, and both exponents are odd. -/
theorem cryptFixedValues : Obligations.CryptFixedValues := by
  intro s hk hv h
  have hed := hk.keyExponents hv
  have hn := hed.one_lt
  have h0 : 0 ≤ s.opa.toInt := by omega
  have hlt : s.opa.toInt < s.kn.toInt := by omega
  rw [exec_enc, exec_dec, finishRes_cryptWith hed hv h0 hlt, finishRes_cryptWith hed.symm hv h0 hlt,
    crypted_of_fixed hed h, crypted_of_fixed hed.symm h]
  exact ⟨rfl, rfl⟩

/-- Settles O42: the primitive raises NoKey for either exponent. -/
theorem encDecNeedAKey : Obligations.EncDecNeedAKey := by
  intro s hv
  rw [exec_enc, exec_dec, cryptWith_of_not_keyValid hv, cryptWith_of_not_keyValid hv]
  exact ⟨rfl, rfl⟩

/-- In the domain a command of the primitive leaves the RES and ERR that MODEXP leaves with its
exponent in OPB and KN in OPM (43_modexp.md R130). -/
theorem finishRes_cryptWith_modexp {s u : State} {w : Word} (hv : s.keyValid = true)
    (h0 : 0 ≤ s.opa.toInt) (hlt : s.opa.toInt < s.kn.toInt)
    (hu : exec .modexp { s with opb := w, opm := s.kn } = .next u) :
    (finishRes (cryptWith w.toInt s) s).res = u.res ∧
      (finishRes (cryptWith w.toInt s) s).err = u.err := by
  obtain rfl : finishRes (modExp s.opa.toInt w.toInt s.kn.toInt)
      { s with opb := w, opm := s.kn } = u := by injection hu
  rw [cryptWith_eq_modExp hv h0 hlt]
  exact finishRes_res_err_congr _ rfl

/-- Settles O46: both commands are the primitive, with KE or KD as the exponent. -/
theorem onePrimitiveTwoUses : Obligations.OnePrimitiveTwoUses := by
  intro s t u hv h0 hlt
  rw [exec_enc, exec_dec]
  constructor
  · rintro ⟨rfl⟩ hu
    exact finishRes_cryptWith_modexp hv h0 hlt hu
  · rintro ⟨rfl⟩ hu
    exact finishRes_cryptWith_modexp hv h0 hlt hu

end Sys2Proof.Machine
end

/-! The host's codecs (46_host_codecs.md): splitting and joining, numerals and tokens. -/

section
namespace Sys2Proof.Machine

/-! ### Splitting and joining (46_host_codecs.md R161) -/

/-- t is one token: a nonempty string without whitespace (46_host_codecs.md R161). -/
def IsToken (t : Text) : Prop := t ≠ [] ∧ ∀ b ∈ t, isSpace b = false

/-- Characters that are not whitespace extend the current token. -/
theorem tokensFrom_append {t : Text} (ht : ∀ b ∈ t, isSpace b = false) (cur rest : Text) :
    tokensFrom cur (t ++ rest) = tokensFrom (cur ++ t) rest := by
  induction t generalizing cur with
  | nil => simp
  | cons b t ih =>
    obtain ⟨hb, ht⟩ := List.forall_mem_cons.1 ht
    simp [tokensFrom, hb, ih ht]

theorem tokens_of_isToken {t : Text} (ht : IsToken t) : tokens t = [t] := by
  have h := tokensFrom_append ht.2 [] []
  rw [List.append_nil, List.nil_append] at h
  rw [tokens, h, tokensFrom, flush, if_neg ht.1]

/-- A token and a space in front of a text are one token more. -/
theorem tokens_append_space {t : Text} (ht : IsToken t) (rest : Text) :
    tokens (t ++ 0x20 :: rest) = t :: tokens rest := by
  rw [tokens, tokensFrom_append ht.2]
  simp [tokensFrom, isSpace, flush, ht.1, tokens]

/-- Splitting undoes joining (46_host_codecs.md R161). -/
theorem tokens_join {ts : List Text} (h : ∀ t ∈ ts, IsToken t) : tokens (join ts) = ts := by
  match ts with
  | [] => rfl
  | [t] => exact tokens_of_isToken (h t (List.mem_singleton_self t))
  | t :: u :: us =>
    obtain ⟨ht, hus⟩ := List.forall_mem_cons.1 h
    rw [join, tokens_append_space ht, tokens_join hus]

/-! ### Digits -/

/-- A decimal digit is no whitespace. -/
theorem isSpace_of_isDigit {b : Byte} (h : isDigit b = true) : isSpace b = false := by
  simp only [isDigit, Bool.and_eq_true, decide_eq_true_eq] at h
  have hb : b ≠ 0x20 := by
    rintro rfl
    exact absurd h (by decide)
  have hrange : ¬ (0x09 ≤ b.toNat ∧ b.toNat ≤ 0x0D) := by omega
  rw [isSpace, beq_eq_false_iff_ne.2 hb, Bool.false_or, ← Bool.decide_and, decide_eq_false hrange]

theorem digitChar_toNat {d : ℕ} (hd : d < 10) : (digitChar d).toNat = 0x30 + d := by
  simp only [digitChar, BitVec.toNat_ofNat]
  omega

theorem isDigit_digitChar {d : ℕ} (hd : d < 10) : isDigit (digitChar d) = true := by
  simp only [isDigit, digitChar_toNat hd, Bool.and_eq_true, decide_eq_true_eq]
  omega

@[simp] theorem digitsValue_nil (k acc : ℕ) : digitsValue k acc [] = acc := rfl

/-- d is the number of the digit in front, when its character is b. -/
theorem digitsValue_cons (k acc : ℕ) {b : Byte} {d : ℕ} (hb : b.toNat - 0x30 = d) (t : Text) :
    digitsValue k acc (b :: t) = digitsValue k (acc * k + d) t := by
  subst hb
  rfl

theorem digitsValue_digitChar_cons (k acc : ℕ) {d : ℕ} (hd : d < 10) (t : Text) :
    digitsValue k acc (digitChar d :: t) = digitsValue k (acc * k + d) t :=
  digitsValue_cons k acc (by rw [digitChar_toNat hd, Nat.add_sub_cancel_left]) t

/-! ### Decimal numerals (46_host_codecs.md R163) -/

/-- Each step of the loop moves the last digit of n in front of the digits written so far. -/
theorem digitsValue_decimalDigits {fuel n : ℕ} (hn : n < fuel) (acc : Text) :
    digitsValue 10 0 (decimalDigits fuel n acc) = digitsValue 10 n acc := by
  induction fuel generalizing n acc with
  | zero => omega
  | succ fuel ih =>
    have hdigit : n % 10 < 10 := Nat.mod_lt n (by decide)
    rw [decimalDigits]
    split
    next hlast =>
      rw [digitsValue_digitChar_cons 10 0 hdigit]
      congr 1
      omega
    next hmore =>
      rw [ih (by omega), digitsValue_digitChar_cons 10 _ hdigit]
      congr 1
      omega

theorem isDigit_of_mem_decimalDigits {fuel n : ℕ} {acc : Text} (hacc : ∀ b ∈ acc, isDigit b = true) :
    ∀ b ∈ decimalDigits fuel n acc, isDigit b = true := by
  induction fuel generalizing n acc with
  | zero => exact hacc
  | succ fuel ih =>
    have hcons : ∀ b ∈ digitChar (n % 10) :: acc, isDigit b = true :=
      List.forall_mem_cons.2 ⟨isDigit_digitChar (Nat.mod_lt n (by decide)), hacc⟩
    rw [decimalDigits]
    split
    next => exact hcons
    next => exact ih hcons

theorem decimalDigits_ne_nil {fuel n : ℕ} {acc : Text} (h : 0 < fuel ∨ acc ≠ []) :
    decimalDigits fuel n acc ≠ [] := by
  induction fuel generalizing n acc with
  | zero => exact h.resolve_left (by decide)
  | succ fuel ih =>
    rw [decimalDigits]
    split
    next => exact List.cons_ne_nil _ _
    next => exact ih (.inr (List.cons_ne_nil _ _))

theorem decimal_ne_nil (n : ℕ) : decimal n ≠ [] := decimalDigits_ne_nil (.inl n.succ_pos)

theorem isDigit_of_mem_decimal {n : ℕ} {b : Byte} (h : b ∈ decimal n) : isDigit b = true :=
  isDigit_of_mem_decimalDigits (List.forall_mem_nil _) b h

theorem digitsValue_decimal (n : ℕ) : digitsValue 10 0 (decimal n) = n :=
  digitsValue_decimalDigits n.lt_succ_self []

/-- A numeral is one token of a text. -/
theorem isToken_decimal (n : ℕ) : IsToken (decimal n) :=
  ⟨decimal_ne_nil n, fun _ hb => isSpace_of_isDigit (isDigit_of_mem_decimal hb)⟩

/-- Settles O55: the numeral is a nonempty string of digits, and its digits' value is the number. -/
theorem decimalRoundTrip : Obligations.DecimalRoundTrip := by
  intro n hn
  have hdigits : (decimal n).all isDigit = true :=
    List.all_eq_true.2 fun _ => isDigit_of_mem_decimal
  rw [parseDecimal, digitsValue_decimal, if_pos ⟨decimal_ne_nil n, hdigits, hn⟩]
  rfl

/-! ### Bit-string tokens (46_host_codecs.md R167) -/

/-- Every character of t is a binary digit. -/
def IsBinary (t : Text) : Prop := ∀ b ∈ t, b = 0x30 ∨ b = 0x31

/-- The tokens of R167 and their values. -/
theorem binToInt_eq_some_iff {t : Text} {v : ℤ} :
    binToInt t = some v ↔ t ≠ [] ∧ t.length ≤ 63 ∧ IsBinary t ∧ v = digitsValue 2 0 t := by
  have hbin : t.all (fun b => b == 0x30 || b == 0x31) = true ↔ IsBinary t := by
    simp [IsBinary]
  rw [binToInt, Option.ite_none_right_eq_some, hbin, and_assoc, and_assoc, Option.some_inj,
    eq_comm (b := v)]

/-- A prefix of value acc counts with the weight of the digits after it. -/
theorem digitsValue_eq_add (k acc : ℕ) (t : Text) :
    digitsValue k acc t = acc * k ^ t.length + digitsValue k 0 t := by
  induction t generalizing acc with
  | nil => simp
  | cons b t ih =>
    rw [digitsValue_cons k acc rfl, digitsValue_cons k 0 rfl, ih, ih (0 * k + _), List.length_cons]
    ring

/-- A binary digit is the character of one bit. -/
theorem exists_bit_of_binary {b : Byte} (h : b = 0x30 ∨ b = 0x31) : ∃ d < 2, b = digitChar d := by
  rcases h with rfl | rfl
  · exact ⟨0, by decide, rfl⟩
  · exact ⟨1, by decide, rfl⟩

theorem IsBinary.cons {b : Byte} {t : Text} (h : IsBinary (b :: t)) :
    (∃ d < 2, b = digitChar d) ∧ IsBinary t := by
  obtain ⟨hb, ht⟩ := List.forall_mem_cons.1 h
  exact ⟨exists_bit_of_binary hb, ht⟩

theorem digitsValue_lt {t : Text} (ht : IsBinary t) : digitsValue 2 0 t < 2 ^ t.length := by
  induction t with
  | nil => simp
  | cons b t ih =>
    obtain ⟨⟨d, hd, rfl⟩, hbits⟩ := ht.cons
    have hlt := ih hbits
    rw [digitsValue_digitChar_cons 2 0 (by omega), digitsValue_eq_add, List.length_cons, pow_succ]
    nlinarith

/-- The low bits of a binary string's value are its digits, whatever stands before them. -/
theorem fixedBin_digitsValue {t : Text} (ht : IsBinary t) (acc : ℕ) :
    fixedBin (digitsValue 2 acc t) t.length = t := by
  induction t generalizing acc with
  | nil => rfl
  | cons b t ih =>
    obtain ⟨⟨d, hd, rfl⟩, hbits⟩ := ht.cons
    have hbit : digitsValue 2 (acc * 2 + d) t / 2 ^ t.length % 2 = d := by
      rw [digitsValue_eq_add, mul_comm, Nat.mul_add_div (by positivity),
        Nat.div_eq_of_lt (digitsValue_lt hbits)]
      omega
    rw [digitsValue_digitChar_cons 2 acc (by omega), List.length_cons, fixedBin, hbit, ih hbits]

@[simp] theorem length_fixedBin (v w : ℕ) : (fixedBin v w).length = w := by
  induction w with
  | zero => rfl
  | succ w ih => rw [fixedBin, List.length_cons, ih]

theorem isBinary_fixedBin (v w : ℕ) : IsBinary (fixedBin v w) := by
  induction w with
  | zero => exact List.forall_mem_nil _
  | succ w ih =>
    refine List.forall_mem_cons.2 ⟨?_, ih⟩
    rcases Nat.mod_two_eq_zero_or_one (v / 2 ^ w) with h | h
    · exact .inl (by rw [h]; rfl)
    · exact .inr (by rw [h]; rfl)

theorem digitsValue_fixedBin (v w : ℕ) : digitsValue 2 0 (fixedBin v w) = v % 2 ^ w := by
  induction w with
  | zero => rw [pow_zero, Nat.mod_one]; rfl
  | succ w ih =>
    rw [fixedBin, digitsValue_digitChar_cons 2 0 (by omega), digitsValue_eq_add, length_fixedBin, ih,
      Nat.mod_pow_succ]
    ring

theorem binToInt_fixedBin (v : ℕ) {w : ℕ} (h1 : 1 ≤ w) (hw : w ≤ 63) :
    binToInt (fixedBin v w) = some ((v % 2 ^ w : ℕ) : ℤ) := by
  have hne : fixedBin v w ≠ [] := List.ne_nil_of_length_pos (by rwa [length_fixedBin])
  exact binToInt_eq_some_iff.2
    ⟨hne, (length_fixedBin v w).trans_le hw, isBinary_fixedBin v w, by rw [digitsValue_fixedBin]⟩

theorem binToInt_range {t : Text} {v : ℤ} (h : binToInt t = some v) : 0 ≤ v ∧ v < 2 ^ t.length := by
  obtain ⟨-, -, hbin, rfl⟩ := binToInt_eq_some_iff.1 h
  exact ⟨Int.natCast_nonneg _, mod_cast digitsValue_lt hbin⟩

theorem fixedBin_of_binToInt {t : Text} {v : ℤ} (h : binToInt t = some v) :
    fixedBin v.toNat t.length = t := by
  obtain ⟨-, -, hbin, rfl⟩ := binToInt_eq_some_iff.1 h
  exact fixedBin_digitsValue hbin 0

/-- The width of a token (46_host_codecs.md R167). -/
theorem width_of_binToInt {t : Text} {v : ℤ} (h : binToInt t = some v) :
    1 ≤ t.length ∧ t.length ≤ 63 := by
  obtain ⟨hne, hlen, -, -⟩ := binToInt_eq_some_iff.1 h
  exact ⟨List.length_pos_iff.2 hne, hlen⟩

theorem isToken_fixedBin (v : ℕ) {w : ℕ} (h1 : 1 ≤ w) : IsToken (fixedBin v w) := by
  refine ⟨List.ne_nil_of_length_pos (by rwa [length_fixedBin]), fun b hb => ?_⟩
  rcases isBinary_fixedBin v w b hb with rfl | rfl
  · rfl
  · rfl

/-- Settles O56: fixedBin writes the low bits of a number, and a token's value has its digits as
bits. -/
theorem binaryTokenConversions : Obligations.BinaryTokenConversions := by
  refine ⟨fun v w h1 hw => ⟨length_fixedBin v w, binToInt_fixedBin v h1 hw⟩, fun t v h => ?_⟩
  obtain ⟨h0, hlt⟩ := binToInt_range h
  exact ⟨h0, hlt, fixedBin_of_binToInt h⟩

end Sys2Proof.Machine
end

/-! The host's codecs (46_host_codecs.md): the procedures around ENC and DEC. -/

section
namespace Sys2Proof.Machine

/-! ### One call of ENC or DEC -/

/-- The engine is idle in t and holds the key registers of s: what every unit of a procedure that began
in s starts from and leaves (46_host_codecs.md R160). -/
def IdleWithKeyOf (s t : State) : Prop := t.busy = false ∧ t.keyRegs = s.keyRegs

/-- i is the command, of ENC and DEC, that raises to the exponent x of the key in s, which the key's
other exponent y undoes (43_modexp.md R130). -/
structure CryptCommand (s : State) (i : Instr) (x y : ℤ) : Prop where
  keyValid : s.keyValid = true
  exponents : KeyExponents s.kn.toInt x y
  exec_eq : ∀ t, t.keyRegs = s.keyRegs → exec i t = .next (finishRes (cryptWith x t) t)

section
variable {s : State} (hk : s.KeyInv) (hv : s.keyValid = true)
include hk hv

theorem enc_cryptCommand : CryptCommand s .enc s.ke.toInt s.kd.toInt where
  keyValid := hv
  exponents := hk.keyExponents hv
  exec_eq t ht := by
    have hke : t.ke = s.ke := congrArg (·.2.1) ht
    rw [exec_enc, hke]

theorem dec_cryptCommand : CryptCommand s .dec s.kd.toInt s.ke.toInt where
  keyValid := hv
  exponents := (hk.keyExponents hv).symm
  exec_eq t ht := by
    have hkd : t.kd = s.kd := congrArg (·.2.2.2) ht
    rw [exec_dec, hkd]

end

/-- The state in which a unit call's command runs: the value in OPA and the command accepted
(30_encoding.md R80). -/
def called (i : Instr) (v : ℤ) (t : State) : State :=
  { t with opa := BitVec.ofInt 64 v, cmdreg := encode i, busy := true }

/-- With a key, OPA at or above KN is refused (45_encdec.md R153). -/
theorem cryptWith_of_kn_le {x : ℤ} {s : State} (hv : s.keyValid = true)
    (h : s.kn.toInt ≤ s.opa.toInt) : cryptWith x s = .error .domain := by
  rw [cryptWith, if_neg (by simp [hv])]
  exact if_pos (.inr h)

section
variable {s t : State} {i : Instr} {x y v : ℤ} (h : CryptCommand s i x y) (ht : IdleWithKeyOf s t)
include h ht

/-- Within the call the key stands, and the command runs the primitive on the value written. -/
theorem exec_called : (called i v t).keyValid = true ∧ (called i v t).kn = s.kn ∧
    exec i (called i v t) = .next (finishRes (cryptWith x (called i v t)) (called i v t)) := by
  obtain ⟨-, hregs⟩ := ht
  exact ⟨(congrArg (·.1) hregs).trans h.keyValid, congrArg (·.2.2.1) hregs, h.exec_eq _ hregs⟩

/-- A unit call within the domain gives the power modulo KN and leaves the engine idle with its key
(45_encdec.md R150, R152). -/
theorem unitCall_of_lt_kn (h0 : 0 ≤ v) (hlt : v < s.kn.toInt) :
    ∃ u, unitCall i v t = (u, .ok (v ^ x.toNat % s.kn.toInt)) ∧ IdleWithKeyOf s u := by
  obtain ⟨hvalid, hkn, hexec⟩ := exec_called (v := v) h ht
  have hopa : (called i v t).opa.toInt = v :=
    toInt_ofInt_of_fits (fits_of_nonneg h0 (hlt.le.trans (fits_toInt s.kn).2))
  have hexp : KeyExponents (called i v t).kn.toInt x y := hkn ▸ h.exponents
  rw [finishRes_cryptWith hexp hvalid (by rwa [hopa]) (by rwa [hopa, hkn])] at hexec
  refine ⟨crypted x (called i v t), ?_, rfl, ht.2⟩
  rw [unitCall_eq ht.1 hexec, crypted_res_toInt hexp, hopa, hkn]
  rfl

/-- A unit call of a value at or above KN is refused (46_host_codecs.md R170). -/
theorem unitCall_of_kn_le (hfits : Fits v) (hle : s.kn.toInt ≤ v) :
    ∃ u, unitCall i v t = (u, .error .outOfDomain) := by
  obtain ⟨hvalid, hkn, hexec⟩ := exec_called (v := v) h ht
  have hopa : (called i v t).opa.toInt = v := toInt_ofInt_of_fits hfits
  rw [cryptWith_of_kn_le hvalid (by rwa [hopa, hkn])] at hexec
  exact ⟨_, unitCall_eq ht.1 hexec⟩

end

/-! ### Working the units in order (46_host_codecs.md R160, R170) -/

section
variable {α β : Type} {f : β → State → State × Except HostError Text} {units : α → β}
  {out : α → Text} {I : State → Prop}

/-- When every unit succeeds from the states with I, and leaves such a state, the whole procedure gives
the units' outputs. -/
theorem overUnits_map_ok {as : List α} {s : State}
    (hunit : ∀ a ∈ as, ∀ t, I t → ∃ u, f (units a) t = (u, .ok (out a)) ∧ I u) (hs : I s) :
    ∃ u, overUnits f (as.map units) s = (u, .ok (as.map out)) ∧ I u := by
  induction as generalizing s with
  | nil => exact ⟨s, rfl, hs⟩
  | cons a as ih =>
    obtain ⟨ha, has⟩ := List.forall_mem_cons.1 hunit
    obtain ⟨t, hf, ht⟩ := ha s hs
    obtain ⟨u, hrest, hu⟩ := ih has ht
    exact ⟨u, by simp [overUnits, hf, hrest], hu⟩

/-- The first unit that fails fails the procedure (46_host_codecs.md R170). -/
theorem overUnits_append_error {pre post : List β} {b : β} {s : State} {e : HostError}
    {out : β → Text} (hunit : ∀ a ∈ pre, ∀ t, I t → ∃ u, f a t = (u, .ok (out a)) ∧ I u)
    (hfail : ∀ t, I t → ∃ u, f b t = (u, .error e)) (hs : I s) :
    ∃ u, overUnits f (pre ++ b :: post) s = (u, .error e) := by
  induction pre generalizing s with
  | nil =>
    obtain ⟨u, hu⟩ := hfail s hs
    exact ⟨u, by simp [overUnits, hu]⟩
  | cons a pre ih =>
    obtain ⟨ha, hpre⟩ := List.forall_mem_cons.1 hunit
    obtain ⟨t, hf, ht⟩ := ha s hs
    obtain ⟨u, hu⟩ := ih hpre ht
    exact ⟨u, by simp [overUnits, hf, hu]⟩

end

/-! ### Text (46_host_codecs.md R162, R165, R166) -/

/-- The primes of a key being at least 100, every character's code is below KN. -/
theorem State.KeyInv.lt_kn_of_lt_256 {s : State} (hk : s.KeyInv) (hv : s.keyValid = true) {v : ℤ}
    (h : v < 256) : v < s.kn.toInt := by
  obtain ⟨hnone, -⟩ | ⟨-, p, q, -, -, -, hp, -, hq, -, -, hn, -⟩ := hk
  · simp [hnone] at hv
  · simp only [Config.params] at hp hq
    change s.kn.toInt = p * q at hn
    nlinarith

/-- What encryptText gives for one character: its code's ciphertext as a numeral
(46_host_codecs.md R162). -/
def charToken (n x : ℤ) (b : Byte) : Text := decimal ((b.toNat : ℤ) ^ x.toNat % n).toNat

theorem parseDecimal_decimal_toNat {c : ℤ} (h0 : 0 ≤ c) (hle : c ≤ int64Max) :
    parseDecimal (decimal c.toNat) = some c :=
  (decimalRoundTrip c.toNat (by rwa [Int.toNat_of_nonneg h0])).trans
    (congrArg some (Int.toNat_of_nonneg h0))

section
variable {s t : State} (hk : s.KeyInv) (hv : s.keyValid = true) (ht : IdleWithKeyOf s t) (b : Byte)
include hk hv ht

theorem encryptChar_ok :
    ∃ u, encryptChar b t = (u, .ok (charToken s.kn.toInt s.ke.toInt b)) ∧ IdleWithKeyOf s u := by
  have hlt : (b.toNat : ℤ) < 256 := mod_cast b.isLt
  obtain ⟨u, hcall, hu⟩ :=
    unitCall_of_lt_kn (enc_cryptCommand hk hv) ht b.toNat.cast_nonneg (hk.lt_kn_of_lt_256 hv hlt)
  exact ⟨u, by rw [encryptChar, hcall, charToken], hu⟩

/-- The token parses back to the ciphertext, whose decryption is the code encrypted
(45_encdec.md R154). -/
theorem decryptDecimal_charToken :
    ∃ u, decryptDecimal (charToken s.kn.toInt s.ke.toInt b) t = (u, .ok [b]) ∧
      IdleWithKeyOf s u := by
  have hed := hk.keyExponents hv
  have hlt : (b.toNat : ℤ) < 256 := mod_cast b.isLt
  have hc0 : 0 ≤ (b.toNat : ℤ) ^ s.ke.toInt.toNat % s.kn.toInt := Int.emod_nonneg _ hed.pos.ne'
  have hclt : (b.toNat : ℤ) ^ s.ke.toInt.toNat % s.kn.toInt < s.kn.toInt :=
    Int.emod_lt_of_pos _ hed.pos
  obtain ⟨u, hcall, hu⟩ := unitCall_of_lt_kn (dec_cryptCommand hk hv) ht hc0 hclt
  rw [hed.pow_emod_pow_emod b.toNat.cast_nonneg (hk.lt_kn_of_lt_256 hv hlt)] at hcall
  refine ⟨u, ?_, hu⟩
  rw [decryptDecimal, charToken, parseDecimal_decimal_toNat hc0 (hclt.le.trans (fits_toInt s.kn).2)]
  simp [hcall, show ¬ (255 : ℤ) < b.toNat by omega]

end

/-- Settles O57: encryptText writes one numeral per character, splitting gives these numerals back, and
each decrypts to its character. -/
theorem textRoundTrip : Obligations.TextRoundTrip := by
  intro s text hk hv hb
  obtain ⟨t, henc, ht⟩ := overUnits_map_ok (as := text) (units := id)
    (fun b _ _ ht => encryptChar_ok hk hv ht b) ⟨hb, rfl⟩
  obtain ⟨u, hdec, -⟩ := overUnits_map_ok (as := text) (out := fun b => [b])
    (fun b _ _ ht => decryptDecimal_charToken hk hv ht b) ht
  rw [List.map_id] at henc
  have htokens : tokens (join (text.map (charToken s.kn.toInt s.ke.toInt))) =
      text.map (charToken s.kn.toInt s.ke.toInt) :=
    tokens_join (List.forall_mem_map.2 fun _ _ => isToken_decimal _)
  refine ⟨t, u, _, by rw [encryptText, henc], ?_⟩
  simp only [decryptText, htokens, hdec, ← List.flatMap_def, List.flatMap_singleton']

/-! ### Bit strings (46_host_codecs.md R168, R169, R171) -/

/-- The token is well formed and its value is below n. -/
def TokenBelow (n : ℤ) (tok : Text) : Prop := ∃ v, binToInt tok = some v ∧ v < n

/-- What a bit-string procedure gives for one token: the power of its value, cut to its width
(46_host_codecs.md R168, R169). -/
def recode (n x : ℤ) (tok : Text) : Text := fixedBin (tokenValue tok ^ x.toNat % n).toNat tok.length

theorem tokenValue_eq {tok : Text} {v : ℤ} (h : binToInt tok = some v) : tokenValue tok = v := by
  rw [tokenValue, h, Option.getD_some]

theorem length_recode (n x : ℤ) (tok : Text) : (recode n x tok).length = tok.length :=
  length_fixedBin _ _

section
variable {n x : ℤ} {tok : Text} (hn : 0 < n) (htok : TokenBelow n tok)

theorem isToken_recode (htok : TokenBelow n tok) : IsToken (recode n x tok) := by
  obtain ⟨v, hv, -⟩ := htok
  exact isToken_fixedBin _ (width_of_binToInt hv).1

include hn htok

/-- The value of the token given: the low bits of the power (46_host_codecs.md R167). -/
theorem binToInt_recode :
    binToInt (recode n x tok) = some (tokenValue tok ^ x.toNat % n % 2 ^ tok.length) := by
  obtain ⟨v, hv, -⟩ := htok
  obtain ⟨h1, hw⟩ := width_of_binToInt hv
  rw [recode, binToInt_fixedBin _ h1 hw]
  push_cast
  rw [Int.toNat_of_nonneg (Int.emod_nonneg _ hn.ne')]

theorem tokenValue_recode :
    tokenValue (recode n x tok) = tokenValue tok ^ x.toNat % n % 2 ^ tok.length :=
  tokenValue_eq (binToInt_recode hn htok)

/-- A truncated value is in the domain as well as the whole one. -/
theorem tokenBelow_recode : TokenBelow n (recode n x tok) := by
  have hpow := Int.emod_nonneg (tokenValue tok ^ x.toNat) hn.ne'
  have hwidth : (0 : ℤ) ≤ 2 ^ tok.length := by positivity
  have hle : tokenValue tok ^ x.toNat % n % 2 ^ tok.length ≤ tokenValue tok ^ x.toNat % n := by
    rw [Int.emod_def _ (2 ^ tok.length)]
    exact sub_le_self _ (mul_nonneg hwidth (Int.ediv_nonneg hpow hwidth))
  exact ⟨_, binToInt_recode hn htok, hle.trans_lt (Int.emod_lt_of_pos _ hn)⟩

/-- A power that fits the width is not truncated (46_host_codecs.md R171). -/
theorem binToInt_recode_of_fits (hfit : tokenValue tok ^ x.toNat % n < 2 ^ tok.length) :
    binToInt (recode n x tok) = some (tokenValue tok ^ x.toNat % n) := by
  rw [binToInt_recode hn htok, Int.emod_eq_of_lt (Int.emod_nonneg _ hn.ne') hfit]

end

/-- The other exponent gives a token back whose power fits its width (46_host_codecs.md R171). -/
theorem recode_recode {n x y : ℤ} (h : KeyExponents n x y) {tok : Text} (htok : TokenBelow n tok)
    (hfit : tokenValue tok ^ x.toNat % n < 2 ^ tok.length) : recode n y (recode n x tok) = tok := by
  have hvalue := tokenValue_eq (binToInt_recode_of_fits h.pos htok hfit)
  obtain ⟨v, hv, hlt⟩ := htok
  rw [recode, hvalue, length_recode, tokenValue_eq hv,
    h.pow_emod_pow_emod (binToInt_range hv).1 hlt, fixedBin_of_binToInt hv]

section
variable {s t : State} {i : Instr} {x y : ℤ} (h : CryptCommand s i x y)
include h

theorem binaryUnit_ok {tok : Text} (htok : TokenBelow s.kn.toInt tok) (ht : IdleWithKeyOf s t) :
    ∃ u, binaryUnit i tok t = (u, .ok (recode s.kn.toInt x tok)) ∧ IdleWithKeyOf s u := by
  obtain ⟨v, hv, hlt⟩ := htok
  obtain ⟨u, hcall, hu⟩ := unitCall_of_lt_kn h ht (binToInt_range hv).1 hlt
  refine ⟨u, ?_, hu⟩
  rw [binaryUnit, hv, recode, tokenValue_eq hv]
  simp [hcall]

theorem binaryUnit_outOfDomain {tok : Text} {v : ℤ} (hv : binToInt tok = some v)
    (hle : s.kn.toInt ≤ v) (ht : IdleWithKeyOf s t) :
    ∃ u, binaryUnit i tok t = (u, .error .outOfDomain) := by
  obtain ⟨h0, hlt⟩ := binToInt_range hv
  have hfits : Fits v := by
    have hwidth : (2 : ℤ) ^ tok.length ≤ 2 ^ 63 :=
      pow_le_pow_right₀ one_le_two (width_of_binToInt hv).2
    exact fits_of_nonneg h0 (by unfold int64Max; omega)
  obtain ⟨u, hu⟩ := unitCall_of_kn_le h ht hfits hle
  exact ⟨u, by simp [binaryUnit, hv, hu]⟩

theorem overTokens_ok {toks : List Text} (htoks : ∀ tok ∈ toks, TokenBelow s.kn.toInt tok)
    (ht : IdleWithKeyOf s t) :
    ∃ u, overUnits (binaryUnit i) toks t = (u, .ok (toks.map (recode s.kn.toInt x))) ∧
      IdleWithKeyOf s u := by
  have hunits := overUnits_map_ok (units := id)
    (fun tok hmem _ ht => binaryUnit_ok h (htoks tok hmem) ht) ht
  rwa [List.map_id] at hunits

theorem overTokens_outOfDomain {pre post : List Text} {tok : Text} {v : ℤ}
    (hpre : ∀ tok ∈ pre, TokenBelow s.kn.toInt tok) (hv : binToInt tok = some v)
    (hle : s.kn.toInt ≤ v) (ht : IdleWithKeyOf s t) :
    ∃ u, overUnits (binaryUnit i) (pre ++ tok :: post) t = (u, .error .outOfDomain) :=
  overUnits_append_error (fun tok hmem _ ht => binaryUnit_ok h (hpre tok hmem) ht)
    (fun _ ht => binaryUnit_outOfDomain h hv hle ht) ht

end

theorem tokens_join_recode {n x : ℤ} {toks : List Text} (htoks : ∀ tok ∈ toks, TokenBelow n tok) :
    tokens (join (toks.map (recode n x))) = toks.map (recode n x) :=
  tokens_join (List.forall_mem_map.2 fun tok hmem => isToken_recode (htoks tok hmem))

/-- No token whose width holds every value below n is truncated (46_host_codecs.md R171). -/
theorem fits_of_wide {n x : ℤ} (hn : 0 < n) {tok : Text} (hwide : n ≤ 2 ^ tok.length) :
    tokenValue tok ^ x.toNat % n < 2 ^ tok.length := (Int.emod_lt_of_pos _ hn).trans_le hwide

/-- The tokens given for wide ones have their widths and, whole, the powers of their values. -/
theorem map_recode_of_wide {n x : ℤ} (hn : 0 < n) {toks : List Text}
    (htoks : ∀ tok ∈ toks, TokenBelow n tok) (hwide : ∀ tok ∈ toks, n ≤ 2 ^ tok.length) :
    (toks.map (recode n x)).map List.length = toks.map List.length ∧
      (toks.map (recode n x)).map binToInt =
        toks.map (fun tok => some (tokenValue tok ^ x.toNat % n)) := by
  rw [List.map_map, List.map_map]
  exact ⟨List.map_congr_left fun tok _ => length_recode n x tok,
    List.map_congr_left fun tok hmem =>
      binToInt_recode_of_fits hn (htoks tok hmem) (fits_of_wide hn (hwide tok hmem))⟩

section
variable {s t : State} (hk : s.KeyInv) (hv : s.keyValid = true) (ht : IdleWithKeyOf s t)
  {text : Text} (htext : ∀ tok ∈ tokens text, TokenBelow s.kn.toInt tok)
include hk hv ht htext

theorem encryptBinaryTokens_ok :
    ∃ u, encryptBinaryTokens text t =
        (u, .ok (join ((tokens text).map (recode s.kn.toInt s.ke.toInt)))) ∧
      IdleWithKeyOf s u := by
  obtain ⟨u, hover, hu⟩ := overTokens_ok (enc_cryptCommand hk hv) htext ht
  exact ⟨u, by rw [encryptBinaryTokens, hover], hu⟩

theorem decryptBinaryTokens_ok :
    ∃ u, decryptBinaryTokens text t =
        (u, .ok (join ((tokens text).map (recode s.kn.toInt s.kd.toInt)))) ∧
      IdleWithKeyOf s u := by
  obtain ⟨u, hover, hu⟩ := overTokens_ok (dec_cryptCommand hk hv) htext ht
  exact ⟨u, by rw [decryptBinaryTokens, hover], hu⟩

/-- What encoding emits decodes without an error, the values it emits being below KN. -/
theorem encryptBinaryTokens_decryptBinaryTokens :
    ∃ t' u, encryptBinaryTokens text t =
        (t', .ok (join ((tokens text).map (recode s.kn.toInt s.ke.toInt)))) ∧
      decryptBinaryTokens (join ((tokens text).map (recode s.kn.toInt s.ke.toInt))) t' =
        (u, .ok (join ((tokens text).map fun tok =>
          recode s.kn.toInt s.kd.toInt (recode s.kn.toInt s.ke.toInt tok)))) := by
  have hn := (hk.keyExponents hv).pos
  have htokens := tokens_join_recode (x := s.ke.toInt) htext
  obtain ⟨t', henc, ht'⟩ := encryptBinaryTokens_ok hk hv ht htext
  obtain ⟨u, hdec, -⟩ := decryptBinaryTokens_ok hk hv ht' (text := join _) (by
    rw [htokens]
    exact List.forall_mem_map.2 fun tok hmem => tokenBelow_recode hn (htext tok hmem))
  rw [htokens, List.map_map] at hdec
  exact ⟨t', u, henc, hdec⟩

/-- Decoding gives back the tokens whose ciphertext fits their width (46_host_codecs.md R171). -/
theorem encryptBinaryTokens_decryptBinaryTokens_of_fits
    (hfit : ∀ tok ∈ tokens text,
      tokenValue tok ^ s.ke.toInt.toNat % s.kn.toInt < 2 ^ tok.length) :
    ∃ t' u, encryptBinaryTokens text t =
        (t', .ok (join ((tokens text).map (recode s.kn.toInt s.ke.toInt)))) ∧
      decryptBinaryTokens (join ((tokens text).map (recode s.kn.toInt s.ke.toInt))) t' =
        (u, .ok (join (tokens text))) := by
  obtain ⟨t', u, henc, hdec⟩ := encryptBinaryTokens_decryptBinaryTokens hk hv ht htext
  have hback : (tokens text).map (fun tok =>
      recode s.kn.toInt s.kd.toInt (recode s.kn.toInt s.ke.toInt tok)) = tokens text :=
    (List.map_congr_left (g := id) fun tok hmem =>
      recode_recode (hk.keyExponents hv) (htext tok hmem) (hfit tok hmem)).trans (List.map_id _)
  rw [hback] at hdec
  exact ⟨t', u, henc, hdec⟩

end

/-- Settles O58: such a token is not truncated, and the other exponent undoes the power. -/
theorem binaryTokensRoundTrip : Obligations.BinaryTokensRoundTrip := by
  intro s text hk hv hb h
  have htext : ∀ tok ∈ tokens text, TokenBelow s.kn.toInt tok := fun tok hmem => by
    obtain ⟨v, hval, hlt, -⟩ := h tok hmem
    exact ⟨v, hval, hlt⟩
  obtain ⟨t, u, henc, hdec⟩ :=
    encryptBinaryTokens_decryptBinaryTokens_of_fits hk hv ⟨hb, rfl⟩ htext fun tok hmem => by
      obtain ⟨v, hval, -, hfit⟩ := h tok hmem
      rwa [tokenValue_eq hval]
  exact ⟨t, u, _, henc, hdec⟩

/-- Settles O59: a power modulo KN fits a width w with 2^w >= KN, on encode and on decode. -/
theorem wideTokensNeverTruncate : Obligations.WideTokensNeverTruncate := by
  intro s text hk hv hb h
  have hn := (hk.keyExponents hv).pos
  have htext : ∀ tok ∈ tokens text, TokenBelow s.kn.toInt tok := fun tok hmem => by
    obtain ⟨v, hval, hlt, -⟩ := h tok hmem
    exact ⟨v, hval, hlt⟩
  have hwide : ∀ tok ∈ tokens text, s.kn.toInt ≤ 2 ^ tok.length := fun tok hmem => by
    obtain ⟨v, -, -, hle⟩ := h tok hmem
    exact hle
  constructor
  · obtain ⟨t, u, henc, hdec⟩ := encryptBinaryTokens_decryptBinaryTokens_of_fits hk hv ⟨hb, rfl⟩
      htext fun tok hmem => fits_of_wide hn (hwide tok hmem)
    obtain ⟨hlen, hval⟩ := map_recode_of_wide (x := s.ke.toInt) hn htext hwide
    rw [← tokens_join_recode htext] at hlen hval
    exact ⟨t, u, _, henc, hlen, hval, hdec⟩
  · obtain ⟨t, hdec, -⟩ := decryptBinaryTokens_ok hk hv ⟨hb, rfl⟩ htext
    obtain ⟨hlen, hval⟩ := map_recode_of_wide (x := s.kd.toInt) hn htext hwide
    rw [← tokens_join_recode htext] at hlen hval
    exact ⟨t, _, hdec, hlen, hval⟩

/-- Settles O60: every token below KN is recoded in its width, the truncated ones again; a value at or
above KN fails its unit, and thereby the procedure. -/
theorem binaryTokensTruncateSilently : Obligations.BinaryTokensTruncateSilently := by
  intro s text hk hv hb
  constructor
  · intro htext
    obtain ⟨t, u, henc, hdec⟩ :=
      encryptBinaryTokens_decryptBinaryTokens hk hv ⟨hb, rfl⟩ htext
    refine ⟨t, u, _, henc, rfl, hdec.trans ?_⟩
    congr 3
    refine List.map_congr_left fun tok hmem => ?_
    rw [recode, length_recode, tokenValue_recode (hk.keyExponents hv).pos (htext tok hmem)]
  · intro pre post tok v htokens hpre hval hle
    obtain ⟨t, henc⟩ := overTokens_outOfDomain (enc_cryptCommand hk hv) hpre hval hle ⟨hb, rfl⟩
    obtain ⟨u, hdec⟩ := overTokens_outOfDomain (dec_cryptCommand hk hv) hpre hval hle ⟨hb, rfl⟩
    rw [encryptBinaryTokens, decryptBinaryTokens, htokens, henc, hdec]
    exact ⟨rfl, rfl⟩

end Sys2Proof.Machine
end

/-! Exceptions (60_exceptions.md): the codes a command or an illegal word ends with, and what an error
leaves unchanged. -/

section
namespace Sys2Proof.Machine

/-- Settles O50: of the ways a command completes only `raise` clears BUSY with a code that is not 0,
and it changes nothing but ERR, BUSY and the words consumed. -/
theorem errorsChangeOnlyErrAndBusy : Obligations.ErrorsChangeOnlyErrAndBusy := by
  intro i s t hb h htb hte
  cases exec_completion h with
  | waits => simp [hb] at htb
  | raises x hrest =>
    obtain ⟨used, hws⟩ := hrest
    refine ⟨used.length, by simp [← hws], ?_⟩
    rw [consume_of_append hws.symm, ← hws, List.drop_left]
    rfl
  | writesRes => exact absurd rfl hte
  | writesKey => exact absurd rfl hte

/-- A word that decodes to a command has field ZERO 0 and an OPC from 1 to 7 (30_encoding.md R71). -/
theorem fields_of_decode {w : Word} {i : Instr} (h : decode w = .ok i) :
    zeroField w = 0 ∧ 1 ≤ (opcField w).toNat ∧ (opcField w).toNat ≤ 7 := by
  obtain rfl := decode_eq_ok_iff.1 h
  rw [opcField_encode]
  exact ⟨zeroField_encode i, by cases i <;> decide, by cases i <;> decide⟩

/-- Settles O5: no command decodes from the word, so the engine's turn raises Illegal. -/
theorem illegalWordRaisesIllegal : Obligations.IllegalWordRaisesIllegal := by
  intro s h hb hturn hill
  rw [step_of_engineTurn hb hturn]
  obtain ⟨hidle, -⟩ | ⟨-, i, hd, -⟩ | ⟨-, e, -, hstep⟩ := engineStep_cases (setHost h s)
  · exact absurd hidle (by simp [hb])
  · obtain ⟨hzero, hlo, hhi⟩ := fields_of_decode hd
    rcases hill with hne | hlt | hgt
    · exact absurd hzero hne
    · exact absurd hlo hlt.not_ge
    · exact absurd hhi hgt.not_ge
  · exact hstep

/-- The engine's step is never a fault or a refusal (60_exceptions.md R190). -/
theorem engineStep_next (s : State) : ∃ t, engineStep s = .next t := by
  obtain ⟨-, h⟩ | ⟨-, i, -, h⟩ | ⟨-, e, -, h⟩ := engineStep_cases s
  · exact ⟨s, h⟩
  · exact h ▸ exec_next i s
  · exact ⟨_, h⟩

/-- Settles O15: a step is the engine's, or an action of the environment, which answers at once. -/
theorem everyStepAnswers : Obligations.EveryStepAnswers := by
  intro s
  unfold step systemStep
  split
  · exact engineStep_next _
  · exact engineStep_next _
  · split
    · split
      · exact engineStep_next _
      · exact ⟨_, rfl⟩
    · exact ⟨_, rfl⟩
  · exact ⟨_, rfl⟩
  · exact ⟨_, rfl⟩
  · exact ⟨_, rfl⟩

/-- The first test of KEYGEN is that of KEYVALID, before a word is drawn (44_keygen.md R136). -/
theorem keygenWith_of_keyValid {P : Params} {s : State} (hv : s.keyValid = true) :
    keygenWith P s = raise .keyLocked s := if_pos hv

/-- Settles O36: KEYGEN on this hardware raises KeyLocked. -/
theorem keygenLocked : Obligations.KeygenLocked := fun _ hv =>
  congrArg Host.Outcome.next (keygenWith_of_keyValid hv)

/-- With a key, OPA outside [0, KN) is refused (45_encdec.md R153). -/
theorem cryptWith_of_outside {x : ℤ} {s : State} (hv : s.keyValid = true)
    (h : s.opa.toInt < 0 ∨ s.kn.toInt ≤ s.opa.toInt) : cryptWith x s = .error .domain := by
  rw [cryptWith, if_neg (by simp [hv])]
  exact if_pos h

/-- Settles O43: the primitive raises Domain for either exponent. -/
theorem encDecDomain : Obligations.EncDecDomain := by
  intro s hv h
  rw [exec_enc, exec_dec, cryptWith_of_outside hv h, cryptWith_of_outside hv h]
  exact ⟨rfl, rfl⟩

end Sys2Proof.Machine
end

/-! Reset and hazards (70_reset_and_hazards.md): reset, the words an abandoned command had drawn, the
engine's turn, and the host's construction loop. -/

section
namespace Sys2Proof.Machine

/-! ### Hazards and the engine's turn -/

/-- Settles O4: in each of the three forms of its turn the engine executes the decoded command. -/
theorem stepRunsDecodedCommand : Obligations.StepRunsDecodedCommand := by
  intro s i hb hd
  have hexec : ∀ h, s.EngineTurn h → step s = exec i (setHost h s) := fun h hturn =>
    (step_of_engineTurn hb hturn).trans (engineStep_of_decode (s := setHost h s) hb hd)
  refine ⟨fun hh => ?_, fun rest hh => ?_, fun rest hh => ?_⟩
  · rw [hexec [] (.inl ⟨hh, rfl⟩), setHost, ← hh]
  · exact hexec rest (.inr (.inl hh))
  · exact hexec (.wait 1 :: rest) (.inr (.inr ⟨rest, hh, rfl⟩))

/-- Settles O11: the nine offsets are those of the registers, none of which takes a write while busy. -/
theorem busyHazard : Obligations.BusyHazard := by
  intro s rest off v hb hoff hh
  obtain ⟨r, -, rfl⟩ := (List.mem_map (f := Reg.offset)
    (l := [.cmd, .status, .opa, .opb, .opm, .res, .ke, .kn, .kd])).1 hoff
  exact step_write_busy hb hh

/-! ### Reset -/

/-- Settles O16: each of the nine offsets is a register's, and the reset state holds 0 in all of them. -/
theorem resetIsAllZero : Obligations.ResetIsAllZero := by
  refine ⟨fun off hoff => ?_, rfl, rfl, rfl, rfl, rfl, rfl, rfl, engineStep_idle rfl⟩
  obtain ⟨r, -, rfl⟩ := (List.mem_map (f := Reg.offset)
    (l := [.cmd, .status, .opa, .opb, .opm, .res, .ke, .kn, .kd])).1 hoff
  exact ⟨r, by cases r <;> rfl, by cases r <;> rfl⟩

/-- `left` says which words a sampler leaves, or that the words do not suffice: it reads them in order,
and where it ends does not depend on the words after those it read (40_primegen.md R91, R96). -/
def ReadsInOrder (left : List Word → Option (List Word)) : Prop :=
  ∀ ⦃ws rest⦄, left ws = some rest →
    ∃ used, ws = used ++ rest ∧ ∀ more, left (used ++ more) = some more

/-- How many of the words `ws` such a sampler reads: all, where they do not suffice. -/
def wordsRead (left : List Word → Option (List Word)) (ws : List Word) : ℕ :=
  ws.length - ((left ws).getD []).length

namespace ReadsInOrder
variable {left : List Word → Option (List Word)} (hleft : ReadsInOrder left)
include hleft

/-- Where it ends within the first k words, it leaves the words after those as well. -/
theorem of_take {ws r : List Word} {k : ℕ} (hr : left (ws.take k) = some r) :
    left ws = some (r ++ ws.drop k) := by
  obtain ⟨used, htake, hused⟩ := hleft hr
  rw [← hused, ← List.append_assoc, ← htake, List.take_append_drop]

/-- Where the words do not suffice, no fewer of them do. -/
theorem take_eq_none {ws : List Word} (h : left ws = none) (k : ℕ) : left (ws.take k) = none := by
  rw [Option.eq_none_iff_forall_ne_some]
  intro r hr
  rw [hleft.of_take hr] at h
  cases h

/-- Where they suffice, the words read do and no fewer. -/
theorem take_eq_none_iff {used : List Word} (hused : ∀ more, left (used ++ more) = some more)
    (rest : List Word) (k : ℕ) : left ((used ++ rest).take k) = none ↔ k < used.length := by
  constructor
  · intro hnone
    by_contra hk
    rw [List.take_append, List.take_of_length_le (by omega), hused] at hnone
    cases hnone
  · intro hk
    rw [Option.eq_none_iff_forall_ne_some]
    intro r hr
    have hlen := congrArg List.length
      (Option.some.inj ((hused rest).symm.trans (hleft.of_take hr)))
    simp only [List.length_append, List.length_drop] at hlen
    omega

/-- It reads an n-th word exactly when there is one and the words before it do not suffice. -/
theorem le_wordsRead_iff (ws : List Word) (n : ℕ) :
    n ≤ wordsRead left ws ↔ n = 0 ∨ n ≤ ws.length ∧ left (ws.take (n - 1)) = none := by
  cases hws : left ws with
  | none =>
    simp only [wordsRead, hws, Option.getD_none, List.length_nil, Nat.sub_zero,
      hleft.take_eq_none hws, and_true]
    omega
  | some rest =>
    obtain ⟨used, rfl, hused⟩ := hleft hws
    rw [hleft.take_eq_none_iff hused]
    simp only [wordsRead, hws, Option.getD_some, List.length_append]
    omega

end ReadsInOrder

/-- The words the first prime leaves (40_primegen.md R91). -/
def primeLeft (P : Params) (ws : List Word) : Option (List Word) :=
  (samplePrime P ws).map Prod.snd

/-- The words two primes leave (44_keygen.md R137). -/
def pairLeft (P : Params) (ws : List Word) : Option (List Word) :=
  (samplePair P ws).map (·.2.2)

/-- The prime sampled is that of the words read, whatever follows them. -/
theorem samplePrime_append {P : Params} {ws rest : List Word} {p : ℤ}
    (h : samplePrime P ws = some (p, rest)) :
    ∃ used, ws = used ++ rest ∧ ∀ more, samplePrime P (used ++ more) = some (p, more) := by
  obtain ⟨pre, w, rfl, hpre, hw⟩ := samplePrime_eq_some_iff.1 h
  exact ⟨pre ++ [w], by simp, fun more =>
    samplePrime_eq_some_iff.2 ⟨pre, w, by simp, hpre, hw⟩⟩

theorem primeLeft_readsInOrder (P : Params) : ReadsInOrder (primeLeft P) := by
  intro ws rest h
  obtain ⟨⟨p, _⟩, hs, rfl⟩ := Option.map_eq_some_iff.1 h
  obtain ⟨used, hws, hused⟩ := samplePrime_append hs
  exact ⟨used, hws, fun more => by rw [primeLeft, hused]; rfl⟩

theorem pairLeft_readsInOrder (P : Params) : ReadsInOrder (pairLeft P) := by
  intro ws rest h
  obtain ⟨⟨p, q, _⟩, hs, rfl⟩ := Option.map_eq_some_iff.1 h
  obtain ⟨mid, hp, hq⟩ := samplePair_eq_some_iff.1 hs
  obtain ⟨used₁, rfl, hused₁⟩ := samplePrime_append hp
  obtain ⟨used₂, rfl, hused₂⟩ := samplePrime_append hq
  refine ⟨used₁ ++ used₂, by simp, fun more => ?_⟩
  rw [pairLeft, List.append_assoc, samplePair_eq_some_iff.2 ⟨_, hused₁ _, hused₂ more⟩]
  rfl

/-- Either every word is passed over, or there is a first one that gives a prime. -/
theorem passedOver_or_first_prime (ws : List Word) :
    (∀ x ∈ ws, PassedOver x) ∨
      ∃ pre w p rest, ws = pre ++ w :: rest ∧ (∀ x ∈ pre, PassedOver x) ∧ GivesPrime w p := by
  induction ws with
  | nil => exact .inl (by simp)
  | cons w ws ih =>
    by_cases hw : PassedOver w
    · obtain hnone | ⟨pre, v, p, rest, rfl, hpre, hv⟩ := ih
      · exact .inl (List.forall_mem_cons.2 ⟨hw, hnone⟩)
      · exact .inr ⟨w :: pre, v, p, rest, rfl, List.forall_mem_cons.2 ⟨hw, hpre⟩, hv⟩
    · obtain ⟨p, hp⟩ := not_forall_not.1 hw
      exact .inr ⟨[], w, p, ws, rfl, by simp, hp⟩

/-- The words give fewer than two primes, or begin with those that drive KEYGEN to a pair. -/
theorem fewerThanTwoPrimes_or_givesPair (ws : List Word) :
    FewerThanTwoPrimes ws ∨ ∃ last rest p q, ws = last ++ rest ∧ GivesPair last p q := by
  obtain hnone | ⟨pre₁, w₁, p, mid, rfl, hpre₁, hw₁⟩ := passedOver_or_first_prime ws
  · exact .inl (.inl hnone)
  · obtain hnone | ⟨pre₂, w₂, q, rest, rfl, hpre₂, hw₂⟩ := passedOver_or_first_prime mid
    · exact .inl (.inr ⟨pre₁, w₁, p, mid, rfl, hpre₁, hw₁, hnone⟩)
    · exact .inr ⟨pre₁ ++ w₁ :: (pre₂ ++ [w₂]), rest, p, q, by simp,
        pre₁, w₁, pre₂, w₂, rfl, hpre₁, hw₁, hpre₂, hw₂⟩

/-- The words of a pair give it, whatever follows them (44_keygen.md R137). -/
theorem GivesPair.samplePair_append {last : List Word} {p q : ℕ} (h : GivesPair last p q)
    (rest : List Word) :
    samplePair Config.params (last ++ rest) = some ((p : ℤ), (q : ℤ), rest) := by
  obtain ⟨pre₁, w₁, pre₂, w₂, rfl, hpre₁, hw₁, hpre₂, hw₂⟩ := h
  simpa using samplePair_of_givesPrime (rest := rest) hpre₁ hw₁ hpre₂ hw₂

/-- The pair is incomplete exactly while the words give fewer than two primes (44_keygen.md R135). -/
theorem samplePair_params_eq_none_iff {ws : List Word} :
    samplePair Config.params ws = none ↔ FewerThanTwoPrimes ws := by
  refine ⟨fun h => ?_, samplePair_of_fewerThanTwoPrimes⟩
  obtain hfew | ⟨last, rest, p, q, rfl, hpair⟩ := fewerThanTwoPrimes_or_givesPair ws
  · exact hfew
  · rw [hpair.samplePair_append] at h
    cases h

theorem primeLeft_params_eq_none_iff {ws : List Word} :
    primeLeft Config.params ws = none ↔ ∀ x ∈ ws, PassedOver x := by
  rw [primeLeft, Option.map_eq_none_iff, samplePrime_params_eq_none_iff]

theorem pairLeft_params_eq_none_iff {ws : List Word} :
    pairLeft Config.params ws = none ↔ FewerThanTwoPrimes ws := by
  rw [pairLeft, Option.map_eq_none_iff, samplePair_params_eq_none_iff]

section
variable {s : State}

/-- A running PRIMEGEN draws at most the words its prime takes (40_primegen.md R91). -/
theorem drawLimit_primegen (h : s.busy = true ∧ decode s.cmdreg = .ok .primegen) :
    drawLimit s = wordsRead (primeLeft Config.params) s.rngWords := by
  obtain ⟨hb, hd⟩ := h
  cases hs : samplePrime Config.params s.rngWords <;>
    simp [drawLimit, hb, hd, wordsRead, primeLeft, hs]

/-- A KEYGEN that runs without a key draws at most the words its two primes take
(44_keygen.md R137). -/
theorem drawLimit_keygen
    (h : s.busy = true ∧ decode s.cmdreg = .ok .keygen ∧ s.keyValid = false) :
    drawLimit s = wordsRead (pairLeft Config.params) s.rngWords := by
  obtain ⟨hb, hd, hv⟩ := h
  cases hs : samplePair Config.params s.rngWords <;>
    simp [drawLimit, hb, hd, hv, wordsRead, pairLeft, hs]

/-- Where neither of the two runs, no word is drawn (00_scope.md R15, 44_keygen.md R136). -/
theorem drawLimit_of_no_sampler (hp : ¬ (s.busy = true ∧ decode s.cmdreg = .ok .primegen))
    (hk : ¬ (s.busy = true ∧ decode s.cmdreg = .ok .keygen ∧ s.keyValid = false)) :
    drawLimit s = 0 := by
  unfold drawLimit
  split
  next hb =>
    split
    next hd => exact absurd ⟨hb, hd⟩ hp
    next hd =>
      split
      next => rfl
      next hv => exact absurd ⟨hb, hd, by simpa using hv⟩ hk
    next => rfl
  next => rfl

end

/-- Settles O17: reset consumes up to the limit, which is what the running sampler reads, and that
reads an n-th word when the words before it leave it unended. -/
theorem assertedResetClears : Obligations.AssertedResetClears := by
  constructor
  · intro s drawn rest hh
    simp only [step, systemStep, hh, assertReset_eq]
    rfl
  · intro s n
    by_cases hp : s.busy = true ∧ decode s.cmdreg = .ok .primegen
    · rw [drawLimit_primegen hp, (primeLeft_readsInOrder _).le_wordsRead_iff,
        primeLeft_params_eq_none_iff]
      simp [State.MayHaveDrawn, hp]
    · by_cases hk : s.busy = true ∧ decode s.cmdreg = .ok .keygen ∧ s.keyValid = false
      · rw [drawLimit_keygen hk, (pairLeft_readsInOrder _).le_wordsRead_iff,
          pairLeft_params_eq_none_iff]
        simp [State.MayHaveDrawn, hk]
      · rw [drawLimit_of_no_sampler hp hk, Nat.le_zero]
        refine ⟨.inl, ?_⟩
        rintro (h0 | ⟨hb, -, ⟨hd, -⟩ | ⟨hd, hv, -⟩⟩)
        · exact h0
        · exact absurd ⟨hb, hd⟩ hp
        · exact absurd ⟨hb, hd, hv⟩ hk

/-! ### The host's construction loop -/

/-- A KEYGEN on these words ends the loop of 70_reset_and_hazards.md R217: it waits, or it finds two
distinct primes. -/
def LastAttempt (ws : List Word) : Prop :=
  FewerThanTwoPrimes ws ∨
    ∃ last rest p q, ws = last ++ rest ∧ GivesPair last p q ∧ p ≠ q

/-- Any other words begin with those of one prime given twice. -/
theorem lastAttempt_or_failed (ws : List Word) :
    LastAttempt ws ∨ ∃ last rest p, ws = last ++ rest ∧ GivesPair last p p := by
  obtain hfew | ⟨last, rest, p, q, hws, hpair⟩ := fewerThanTwoPrimes_or_givesPair ws
  · exact .inl (.inl hfew)
  · by_cases hne : p = q
    · exact .inr ⟨last, rest, p, hws, hne ▸ hpair⟩
    · exact .inl (.inr ⟨last, rest, p, q, hws, hpair, hne⟩)

theorem GivesPrime.prime {w : Word} {p : ℕ} (h : GivesPrime w p) : p.Prime := h.2.2

section
variable {s : State} {last rest : List Word} {p q : ℕ} (hv : s.keyValid = false)
  (hws : s.rngWords = last ++ rest)
include hv hws

/-- KEYGEN on the words of two distinct primes writes their key (44_keygen.md R141, R142). -/
theorem exec_keygen_of_givesPair (hpair : GivesPair last p q) (hne : p ≠ q) :
    ∃ d : ℤ, IsKey Config.params 65537 (p * q) d ∧ exec .keygen s = .next
      { s with ke := 65537, kn := BitVec.ofNat 64 (p * q), kd := BitVec.ofInt 64 d,
               keyValid := true, err := 0, busy := false, rngWords := rest,
               rngUsed := s.rngUsed + last.length } := by
  obtain ⟨pre₁, w₁, pre₂, w₂, rfl, hpre₁, hw₁, hpre₂, hw₂⟩ := hpair
  obtain ⟨hplo, hphi⟩ := hw₁.range
  obtain ⟨hqlo, hqhi⟩ := hw₂.range
  obtain ⟨d, hd0, hdlt, hmul, hexec⟩ :=
    keygenBuildsKey s pre₁ pre₂ rest w₁ w₂ p q hv (by simpa using hws) hpre₁ hw₁ hpre₂ hw₂ hne
  have hkey : IsKey Config.params 65537 (p * q) d :=
    ⟨p, q, hw₁.prime, hw₂.prime, hne, Int.ofNat_le.2 hplo, Int.ofNat_lt.2 hphi, Int.ofNat_le.2 hqlo,
      Int.ofNat_lt.2 hqhi, rfl, rfl, hd0, hdlt, hmul⟩
  exact ⟨d, hkey, by simpa [Nat.add_assoc] using hexec⟩

/-- KEYGEN on the words of one prime given twice ends with E_KEYGEN (44_keygen.md R140 a). -/
theorem exec_keygen_of_failed (hpair : GivesPair last p p) :
    exec .keygen s = .next { s with err := 0x05, busy := false, rngWords := rest,
                                    rngUsed := s.rngUsed + last.length } := by
  obtain ⟨pre₁, w₁, pre₂, w₂, rfl, hpre₁, hw₁, hpre₂, hw₂⟩ := hpair
  simpa [Nat.add_assoc] using
    keygenRejectsEqualPrimes s pre₁ pre₂ rest w₁ w₂ p hv (by simpa using hws) hpre₁ hw₁ hpre₂ hw₂

end

/-- A last attempt does not end with E_KEYGEN. -/
theorem LastAttempt.not_failed {s t : State} (h : LastAttempt s.rngWords) (hb : s.busy = true)
    (hv : s.keyValid = false) (hexec : exec .keygen s = .next t) :
    ¬ (t.busy = false ∧ t.err = Exc.keyGen.code) := by
  rintro ⟨htb, hte⟩
  obtain hfew | ⟨last, rest, p, q, hws, hpair, hne⟩ := h
  · obtain ⟨more, -, hwait⟩ := keygenHangsWithoutTwoPrimes s hv hfew
    obtain rfl := Host.Outcome.next.inj (hexec.symm.trans hwait)
    exact Bool.false_ne_true (htb.symm.trans hb)
  · obtain ⟨d, -, hkey⟩ := exec_keygen_of_givesPair hv hws hpair hne
    obtain rfl := Host.Outcome.next.inj (hexec.symm.trans hkey)
    exact absurd hte (show (0 : BitVec 8) ≠ Exc.keyGen.code by decide)

section
variable {s t : State} (hb : s.busy = false)
  (hexec : exec .keygen (accept (encode .keygen) s) = .next t)
include hb hexec

/-- An attempt of the idle engine's host: KEYGEN is accepted and runs (10_state.md R25). -/
theorem engineNext_write_keygen : engineNext (writeReg .cmd (encode .keygen) s) = t := by
  have hstep : engineStep (accept (encode .keygen) s) = .next t :=
    (engineStep_of_decode rfl (decode_eq_ok_iff.2 rfl)).trans hexec
  rw [writeReg_cmd_idle _ hb, engineNext, hstep]

/-- The host issues KEYGEN again after an attempt that ended with E_KEYGEN. -/
theorem constructLoop_succ_of_failed (ht : t.busy = false ∧ t.err = Exc.keyGen.code) (fuel : ℕ) :
    constructLoop (fuel + 1) s = constructLoop fuel t := by
  simp only [constructLoop, engineNext_write_keygen hb hexec, if_pos ht]

/-- The loop ends with an attempt that ended otherwise, or that waits. -/
theorem constructLoop_succ_of_not_failed (ht : ¬ (t.busy = false ∧ t.err = Exc.keyGen.code))
    (fuel : ℕ) : constructLoop (fuel + 1) s = t := by
  simp only [constructLoop, engineNext_write_keygen hb hexec, if_neg ht]

end

/-- The attempt on the words `ws`, issued in s or, where attempts before it have used up the words
`failed`, after the last of them (70_reset_and_hazards.md R217). -/
def attempting (failed ws : List Word) (s : State) : State :=
  { s with cmdreg := encode .keygen, busy := true, err := if failed = [] then s.err else 0x05,
           rngWords := ws, rngUsed := s.rngUsed + failed.length }

/-- The engine is idle again after an attempt on the words `used`, which gave one prime twice; the
words `rest` are left (44_keygen.md R140 a). -/
def afterFailed (used rest : List Word) (s : State) : State :=
  { s with cmdreg := encode .keygen, busy := false, err := 0x05, rngWords := rest,
           rngUsed := s.rngUsed + used.length }

/-- The attempts after a failed one are attempts of s with its words in front. -/
theorem attempting_afterFailed {used : List Word} (hne : used ≠ []) (rest failed ws : List Word)
    (s : State) :
    attempting failed ws (afterFailed used rest s) = attempting (used ++ failed) ws s := by
  simp [attempting, afterFailed, hne, Nat.add_assoc]

/-- An attempt reads at least one word (40_primegen.md R96). -/
theorem GivesPair.ne_nil {ws : List Word} {p q : ℕ} (h : GivesPair ws p q) : ws ≠ [] := by
  obtain ⟨pre₁, w₁, pre₂, w₂, rfl, -⟩ := h
  simp

/-- The loop is its last attempt, made after those that used up some beginning of the words: each of
them uses up a word, so the fuel outlasts them (log 13). -/
theorem constructLoop_attempts {fuel : ℕ} {s : State} (hb : s.busy = false)
    (hv : s.keyValid = false) (hfuel : s.rngWords.length < fuel) :
    ∃ failed ws, s.rngWords = failed ++ ws ∧ FailedAttempts failed ∧ LastAttempt ws ∧
      exec .keygen (attempting failed ws s) = .next (constructLoop fuel s) := by
  induction fuel generalizing s with
  | zero => omega
  | succ fuel ih =>
    obtain hlast | ⟨used, rest, p, hws, hpair⟩ := lastAttempt_or_failed s.rngWords
    · obtain ⟨t, hexec⟩ := exec_next .keygen (accept (encode .keygen) s)
      have hend := hlast.not_failed (s := accept _ s) rfl hv hexec
      rw [constructLoop_succ_of_not_failed hb hexec hend]
      exact ⟨[], s.rngWords, rfl, .none, hlast, hexec⟩
    · have hexec : exec .keygen (accept (encode .keygen) s) = .next (afterFailed used rest s) :=
        exec_keygen_of_failed (s := accept (encode .keygen) s) hv hws hpair
      have hlen := List.length_pos_iff.2 hpair.ne_nil
      rw [hws, List.length_append] at hfuel
      obtain ⟨failed, ws, rfl, hfailed, hlast, hloop⟩ :=
        ih (s := afterFailed used rest s) rfl hv (show rest.length < fuel by omega)
      rw [attempting_afterFailed hpair.ne_nil] at hloop
      rw [constructLoop_succ_of_failed hb hexec ⟨rfl, rfl⟩]
      exact ⟨used ++ failed, ws, by rw [hws, List.append_assoc], .more hpair hfailed, hlast, hloop⟩

/-- Settles O54: the loop's last attempt writes the key of the two distinct primes, or waits. -/
theorem constructionGivesAKeyOrWaits : Obligations.ConstructionGivesAKeyOrWaits := by
  intro s hb hv
  obtain ⟨failed, ws, hws, hfailed, hlast, hexec⟩ :=
    constructLoop_attempts hb hv (Nat.lt_succ_self s.rngWords.length)
  refine ⟨failed, ws, hws, hfailed, ?_⟩
  obtain hfew | ⟨last, rest, p, q, hlastws, hpair, hne⟩ := hlast
  · obtain ⟨more, hmore, hwait⟩ := keygenHangsWithoutTwoPrimes (attempting failed ws s) hv hfew
    exact .inr ⟨hfew, more, hmore, Host.Outcome.next.inj (hexec.symm.trans hwait)⟩
  · obtain ⟨d, hkey, hend⟩ :=
      exec_keygen_of_givesPair (s := attempting failed ws s) hv hlastws hpair hne
    refine .inl ⟨last, rest, p, q, d, hlastws, hpair, hne, hkey, ?_⟩
    rw [← Nat.add_assoc]
    exact Host.Outcome.next.inj (hexec.symm.trans hend)

end Sys2Proof.Machine
end
